-- ==== Sys2Proof/Word.lean ====
section
/-! DEFINITION. The words of the HLS1024 core and the one way a table of fixed length is built. -/

namespace Sys2Proof

/-- A byte of the block buffer (R25). -/
abbrev Byte := BitVec 8

/-- A 32-bit word: a command, a bus word (R16, R82). -/
abbrev Word := BitVec 32

/-- A residue register of `W = 1024` bits (R9, R21). -/
abbrev Residue := BitVec 1024

/-- The 9-bit index of a state register (R21, R113). -/
abbrev Index := BitVec 9

/-- `f a, f (a+1), …`, `n` of them. -/
def upFrom {α : Type} (f : Nat → α) : Nat → Nat → List α
  | _, 0 => []
  | a, n + 1 => f a :: upFrom f (a + 1) n

theorem length_upFrom {α : Type} (f : Nat → α) (n : Nat) : ∀ a, (upFrom f a n).length = n := by
  induction n with
  | zero => intro a; rfl
  | succ n ih => intro a; simp [upFrom, ih]

/-- The table `f 0, …, f (n-1)`. -/
def tabulate {α : Type} (n : Nat) (f : Nat → α) : Vector α n :=
  ⟨⟨upFrom f 0 n⟩, by simp [length_upFrom]⟩

end Sys2Proof
end

