-- ==== Sys2Proof/Config.lean ====
section
/-! DEFINITION. What an implementation fixes: the build-time parameters (R9 to R15) and the free values. -/

namespace Sys2Proof

/-- `ROUNDS` (R10). -/
def rounds : Nat := 16

/-- `2^64 - 1`, the most blocks a computation may absorb (R16 `BLKCNT_W = 64`, R27, R178). -/
def blkcntMax : BitVec 64 := 0xFFFFFFFFFFFFFFFF

/-- The least modulus of 1024 bits (R11: `2^1023 <= P`). -/
def modulusFloor : Nat := 2 ^ 1023

/-- The first value a residue register cannot hold (R11: `P < 2^1024`). -/
def modulusCeiling : Nat := 2 ^ 1024

/-- The diffusion offsets `OFF` (R15). -/
def diffusionOffsets : List Nat := [0, 1, 2, 4, 8, 16, 32, 64, 128, 256]

/-- The OPEN parameters of the hardware, as yet unchecked: `P` (R11), `IV` (R12), `RC` (R13), `E` (R14) and the
platform's `BASE` (R80). `Sys2Proof.Config` pairs them with the check of R16. -/
structure Params where
  /-- The modulus P (R11). -/
  p : Nat
  /-- The initial state IV[0..511] (R12). -/
  iv : Vector Residue 512
  /-- The round constants RC[0..15][0..511] (R13). -/
  rc : Vector (Vector Residue 512) 16
  /-- The confusion exponent E (R14). -/
  e : Nat
  /-- The base address BASE of the register window (R80, D13). -/
  base : Nat
deriving DecidableEq, Repr

/-- Test instance T of the glossary of 00_scope.md (D41): `P = 2^1024 - 105`, `E = 7`, `IV[i] = i`,
`RC[r][i] = 512 r + i + 1`. It is the spec's instance for examples, not a reference configuration. -/
def Params.testT : Params where
  p := 2 ^ 1024 - 105
  iv := tabulate 512 fun i => BitVec.ofNat 1024 i
  rc := tabulate 16 fun r => tabulate 512 fun i => BitVec.ofNat 1024 (512 * r + i + 1)
  e := 7
  base := 0

/-- FREE VALUE (log 7): the n-th value drawn for a read the spec leaves unspecified, a read of X_WORD, DG_WORD, BLKCNT_LO or
BLKCNT_HI while BUSY = 1 (R45, R47, R49; I6). -/
opaque Config.freeWord : Nat → Word

/-- FREE VALUE (log 8): what INTERNAL leaves in `S[i]`, as the n-th draw (R228; I7). -/
opaque Config.freeResidue : Nat → Nat → Residue

end Sys2Proof
end

