-- ==== Sys2Proof/Syntax.lean ====
section
/-! DEFINITION. The eleven commands of HLS1024-CMD version 1, one constructor per row of spec/opcode_table.json (R115). -/

namespace Sys2Proof

/-- A command. Its operands are the fields of R111: `d`, `a`, `b` are 9-bit indices (R113: every value names a
register), `len` is a 6-bit count (R114); so every term is a command that some word encodes. -/
inductive Instr
  /-- NOP (R212). -/
  | nop
  /-- INIT (R170). -/
  | init
  /-- ABSORB (R175). -/
  | absorb
  /-- ABSORB_LAST len (R176). -/
  | absorbLast (len : BitVec 6)
  /-- PERMUTE (R196). -/
  | permute
  /-- SQUEEZE (R210). -/
  | squeeze
  /-- WRS sd (R160). -/
  | wrs (d : Index)
  /-- RDS sa (R161). -/
  | rds (a : Index)
  /-- MODADD sd, sa, sb (R145). -/
  | modadd (d a b : Index)
  /-- MODMUL sd, sa, sb (R146). -/
  | modmul (d a b : Index)
  /-- MODPOW sd, sa (R147). -/
  | modpow (d a : Index)
deriving DecidableEq, Repr

/-- A line of assembler source (R120) or a pseudo-instruction (R121), its numbers as written. -/
inductive AsmLine
  | nop
  | init
  | absorb
  | absorbLast (len : Nat)
  | permute
  | squeeze
  | wrs (sd : Nat)
  | rds (sa : Nat)
  | modadd (sd sa sb : Nat)
  | modmul (sd sa sb : Nat)
  | modpow (sd sa : Nat)
  /-- `MODSQR sd, sa` (R121). -/
  | modsqr (sd sa : Nat)
  /-- `MODDBL sd, sa` (R121). -/
  | moddbl (sd sa : Nat)
  /-- `MOVS sd, sa` (R121). -/
  | movs (sd sa : Nat)
  /-- `ABSORB_EMPTY_LAST` (R121). -/
  | absorbEmptyLast
deriving DecidableEq, Repr

end Sys2Proof
end

