-- ==== Sys2Proof/WellFormed.lean ====
section
/-! DEFINITION. The checks: a well-formed configuration (R16) and an assembler line an assembler accepts (R120).
A command (`Instr`) needs no check: its fields have the widths of R111. -/

namespace Sys2Proof

/-- Every entry of a table is a residue mod `p` (R12, R13). -/
def allBelow (p : Nat) (t : Vector Residue 512) : Bool := t.toList.all fun v => v.toNat < p

/-- No two of the tables are equal (R13: `RC[r] != RC[r']`). -/
def pairwiseDistinct : List (Vector Residue 512) → Bool
  | [] => true
  | t :: ts => ts.all (fun u => t.toList != u.toList) && pairwiseDistinct ts

/-- The constraints of R11 to R14 that are checked by evaluation (the remaining one is `Params.primeModulus`), and the
alignment of BASE (D13). -/
def Params.wellFormed (c : Params) : Bool :=
  decide (modulusFloor ≤ c.p) && decide (c.p < modulusCeiling)
    && allBelow c.p c.iv
    && c.rc.toList.all (allBelow c.p) && pairwiseDistinct c.rc.toList
    && decide (2 ≤ c.e) && decide (c.e < 2 ^ 32)
    && decide (c.base % 4096 = 0)

/-- The remaining constraint of R11: "P is prime". That the modulus of test instance T is prime is taken from the spec, which
states it and calls T well-formed (G4, 95_test_vectors.md; log 2); every other modulus is required to be a prime. -/
abbrev Params.primeModulus (c : Params) : Prop := c.p = Params.testT.p ∨ Nat.Prime c.p

/-- A configuration of the machine: parameters that meet R11 to R14. An ill-formed configuration is refused by the type
(R16, R228, I8; log 3). -/
structure Config extends Params where
  /-- The constraints checked by evaluation hold. -/
  wf : toParams.wellFormed = true
  /-- The modulus is prime (R11). -/
  prime : toParams.primeModulus
deriving DecidableEq, Repr

/-- The configuration of given parameters; `none` where R16 has a model refuse them. -/
def Config.ofParams (c : Params) : Option Config :=
  if h : c.wellFormed = true ∧ c.primeModulus then some { toParams := c, wf := h.1, prime := h.2 } else none

theorem mem_upFrom {α : Type} (f : Nat → α) (n : Nat) :
    ∀ a x, x ∈ upFrom f a n ↔ ∃ i, a ≤ i ∧ i < a + n ∧ x = f i := by
  induction n with
  | zero => intro a x; simp [upFrom]; omega
  | succ n ih =>
    intro a x
    simp only [upFrom, List.mem_cons, ih]
    constructor
    · rintro (rfl | ⟨i, h1, h2, rfl⟩)
      · exact ⟨a, le_refl _, by omega, rfl⟩
      · exact ⟨i, by omega, by omega, rfl⟩
    · rintro ⟨i, h1, h2, rfl⟩
      rcases Nat.eq_or_lt_of_le h1 with rfl | h
      · exact Or.inl rfl
      · exact Or.inr ⟨i, h, by omega, rfl⟩

theorem allBelow_tabulate (p : Nat) (f : Nat → Residue) (h : ∀ i < 512, (f i).toNat < p) :
    allBelow p (tabulate 512 f) = true := by
  simp only [allBelow, tabulate, Vector.toList_mk, List.all_eq_true, decide_eq_true_eq]
  intro x hx
  obtain ⟨i, -, hi, rfl⟩ := (mem_upFrom f 512 0 x).1 hx
  exact h i (by omega)

theorem Params.testT_wellFormed : Params.testT.wellFormed = true := by
  have small : ∀ n < 2 ^ 14, (BitVec.ofNat 1024 n).toNat < 2 ^ 1024 - 105 := by
    intro n hn
    rw [BitVec.toNat_ofNat]
    exact lt_of_le_of_lt (Nat.mod_le _ _) (lt_of_lt_of_le hn (by decide +kernel))
  have hiv : allBelow Params.testT.p Params.testT.iv = true :=
    allBelow_tabulate _ _ fun i hi => small i (by omega)
  have hrc : Params.testT.rc.toList.all (allBelow Params.testT.p) = true := by
    rw [List.all_eq_true]
    intro t ht
    obtain ⟨r, -, hr, rfl⟩ :=
      (mem_upFrom (fun r => tabulate 512 fun i => BitVec.ofNat 1024 (512 * r + i + 1)) 16 0 t).1 ht
    exact allBelow_tabulate _ _ fun i hi => small (512 * r + i + 1) (by omega)
  have hd : pairwiseDistinct Params.testT.rc.toList = true := by decide +kernel
  have hp : decide (modulusFloor ≤ Params.testT.p) = true := by decide +kernel
  have hp' : decide (Params.testT.p < modulusCeiling) = true := by decide +kernel
  simp only [Params.wellFormed, hiv, hrc, hd, hp, hp', Bool.true_and]
  decide

/-- Test instance T (D41) as a configuration. -/
def Config.testT : Config := { toParams := Params.testT, wf := Params.testT_wellFormed, prime := .inl rfl }

/-- An index an assembler accepts (R120: it "refuses an index outside 0 to 511"). -/
def indexOk (n : Nat) : Bool := decide (n < 512)

/-- A length an assembler accepts (R120: it refuses "a LEN outside 0 to 63"). -/
def lenOk (n : Nat) : Bool := decide (n < 64)

/-- The numbers of a line are in range (R120). -/
def AsmLine.wellFormed : AsmLine → Bool
  | .nop => true
  | .init => true
  | .absorb => true
  | .absorbLast len => lenOk len
  | .permute => true
  | .squeeze => true
  | .wrs sd => indexOk sd
  | .rds sa => indexOk sa
  | .modadd sd sa sb => indexOk sd && indexOk sa && indexOk sb
  | .modmul sd sa sb => indexOk sd && indexOk sa && indexOk sb
  | .modpow sd sa => indexOk sd && indexOk sa
  | .modsqr sd sa => indexOk sd && indexOk sa
  | .moddbl sd sa => indexOk sd && indexOk sa
  | .movs sd sa => indexOk sd && indexOk sa
  | .absorbEmptyLast => true

end Sys2Proof
end

