-- ==== Sys2Proof/Machine/State.lean ====
section
/-! DEFINITION. The state of the HLS1024 core (R20) with the outside events that wait for it, as plain data. -/

namespace Sys2Proof.Machine

/-- The digest phase (R28). The encoding 3 is never held (I18; log 16). -/
inductive Phase
  /-- 0: no INIT since reset. -/
  | uninit
  /-- 1: INIT done, blocks may be absorbed. -/
  | absorbing
  /-- 2: the last block is absorbed. -/
  | final
deriving DecidableEq, Repr

/-- The error codes (R220). The codes 7 to 15 are never produced (I17; log 16). -/
inductive ErrCode
  | none
  | illegalCmd
  | range
  | sequence
  | inputTooLarge
  | busyViolation
  | internal
deriving DecidableEq, Repr

/-- One host access to the register window (R82): its 12-bit byte offset (R97 `bus_addr`) and its width in bytes. -/
inductive Access
  /-- `MemRead(off, size)`. -/
  | read (off : BitVec 12) (size : Nat)
  /-- `MemWrite(off, size, v)`. -/
  | write (off : BitVec 12) (size : Nat) (v : Word)
deriving DecidableEq, Repr

/-- What happens next, as R97 has a model count it: "each acknowledged bus access is one atomic host step ..., each
command completion one core step, and reset one step" (log 4). -/
inductive Event
  /-- The core completes the work it has: the command in flight, or the reset clear. -/
  | core
  /-- The host accesses the window. -/
  | bus (a : Access)
  /-- The reset input `rst_n` is asserted and released (R250; log 13). -/
  | resetPin
deriving DecidableEq, Repr

/-- The answer of the bus port to the last access (R97 `bus_rdata`, `bus_ack`, `bus_err`; log 12). -/
inductive BusReply
  /-- No access since reset. -/
  | idle
  /-- A read was performed and returned this word. -/
  | data (v : Word)
  /-- A write was performed. -/
  | ack
  /-- A bus error: the access was refused and did nothing (R82, R222). -/
  | busError
deriving DecidableEq, Repr

/-- Reasons for the machine to stop with a fault: NONE. Every error of this hardware is a state, ERR = 1, out of which a
reset leads (R224, R231), so no event stops it. Raised by nobody; safe. -/
inductive Fault
deriving DecidableEq, Repr

/-- Reasons for a refusal. -/
inductive Refusal
  /-- An instruction without a meaning. Raised by an arm of `exec` that has none yet: no arm. Safe. -/
  | notModelled (mnemonic : String)
deriving DecidableEq, Repr

end Sys2Proof.Machine

namespace Sys2Proof.Machine

/-- The state. The fields from `S` to `clearing` are the spec's (R20), in its order; the others are the model's. -/
structure State where
  /-- State register file (R21). -/
  S : Vector Residue 512
  /-- Transfer register (R24). -/
  x : Residue
  /-- Block buffer (R25). -/
  bb : Vector Byte 64
  /-- Digest register (R26). -/
  dg : Residue
  /-- Block counter (R27). -/
  blkcnt : BitVec 64
  /-- Digest phase (R28). -/
  phase : Phase
  /-- Sticky error flag (R29). -/
  err : Bool
  /-- First error code (R29). -/
  errcode : ErrCode
  /-- First error's command word (R29). -/
  errcmd : Word
  /-- Interrupt enable (R30). -/
  irqEn : Bool
  /-- Completion pending (R30). -/
  doneP : Bool
  /-- Error pending (R30). -/
  errP : Bool
  /-- Command in flight, or reset clear in progress (R31). -/
  busy : Bool
  /-- The in-flight command word, if any (R31). -/
  inflight : Option Word
  /-- Round counter (R32). -/
  rndctr : BitVec 4
  /-- Reset clear in progress (R33). -/
  clearing : Bool
  /-- MODEL: the build-time configuration, the argument R11 to R14 ask for. No step writes it (R34; log 1). -/
  cfg : Config
  /-- MODEL: what happens next, in order (R90, R227; log 4). -/
  events : List Event
  /-- MODEL: the answer of the bus port to the last access (R97; log 12). -/
  reply : BusReply
  /-- MODEL: how many free values have been drawn (log 7, log 8). -/
  draws : Nat
deriving DecidableEq, Repr

/-- The state right after a reset of a core built with `c` (R51, R251): the clear is running, so BUSY = 1. S is 0 at
once (log 9). -/
def State.resetWith (c : Config) : State where
  S := Vector.replicate 512 0
  x := 0
  bb := Vector.replicate 64 0
  dg := 0
  blkcnt := 0
  phase := .uninit
  err := false
  errcode := .none
  errcmd := 0
  irqEn := false
  doneP := false
  errP := false
  busy := true
  inflight := Option.none
  rndctr := 0
  clearing := true
  cfg := c
  events := []
  reply := .idle
  draws := 0

/-- The state right after reset (R51), for the spec's own test instance T (D41; DESIGN CHOICE, log 1: P, IV, RC and E are
open parameters; a statement about reset is made about `resetWith c` for every `c`). -/
def State.reset : State := State.resetWith Config.testT

end Sys2Proof.Machine
end

