-- ==== Sys2Proof/Machine/Flags.lean ====
section
/-! DEFINITION. The status bits: the core has no condition flags (R37); its status words and the interrupt level. -/

namespace Sys2Proof.Machine

/-- One bit as a word. -/
def bitWord (b : Bool) : Word := if b then 1 else 0

/-- The encoding of PHASE (R28). -/
def Phase.code : Phase → Word
  | .uninit => 0
  | .absorbing => 1
  | .final => 2

/-- The error code as held in STATUS.ERRCODE (R220). -/
def ErrCode.code : ErrCode → Word
  | .none => 0
  | .illegalCmd => 1
  | .range => 2
  | .sequence => 3
  | .inputTooLarge => 4
  | .busyViolation => 5
  | .internal => 6

/-- STATUS (R42): BUSY [0], ERR [1], PHASE [3:2], ERRCODE [11:8], the rest 0. -/
def State.statusWord (s : State) : Word :=
  bitWord s.busy ||| bitWord s.err <<< 1 ||| s.phase.code <<< 2 ||| s.errcode.code <<< 8

/-- IRQ_STATUS (R44): DONE_P [0], ERR_P [1], the rest 0. -/
def State.irqStatusWord (s : State) : Word := bitWord s.doneP ||| bitWord s.errP <<< 1

/-- CTRL as read (R41): SOFT_RESET reads 0, IRQ_EN [1], the rest 0. -/
def State.ctrlWord (s : State) : Word := bitWord s.irqEn <<< 1

/-- The interrupt output, a level (R30, R229). -/
def State.irq (s : State) : Bool := s.irqEn && (s.doneP || s.errP)

/-- A write of `w` to IRQ_STATUS (R44): a 1 clears its bit, a 0 leaves it; clearing ERR_P does not clear ERR (R30). -/
def State.clearPending (s : State) (w : Word) : State :=
  { s with doneP := s.doneP && !w.getLsbD 0, errP := s.errP && !w.getLsbD 1 }

end Sys2Proof.Machine
end

