-- ==== Sys2Proof/Machine/Units.lean ====
section
/-! DEFINITION. The modular adder, multiplier and exponentiator: the unit functions (R140 to R142) and the units with their
operand check (R144, R228). -/

namespace Sys2Proof.Machine

/-- `ModAdd` (R140). -/
def modAdd (p a b : Nat) : Nat := (a + b) % p

/-- `ModMul` (R141): the exact product, reduced exactly. -/
def modMul (p a b : Nat) : Nat := (a * b) % p

/-- `ModPow` (R142): `a^e mod p` (log 17). -/
def modPow (p e a : Nat) : Nat := a ^ e % p

/-- An operand a unit accepts (R144: `op < P`). -/
def operandOk (p : Nat) (a : Residue) : Bool := a.toNat < p

/-- The modular_adder (R144): `none` is its internal-consistency failure (R228). -/
def adder (p : Nat) (a b : Residue) : Option Residue :=
  if operandOk p a && operandOk p b then some (BitVec.ofNat 1024 (modAdd p a.toNat b.toNat)) else none

/-- The modular_multiplier (R144). -/
def multiplier (p : Nat) (a b : Residue) : Option Residue :=
  if operandOk p a && operandOk p b then some (BitVec.ofNat 1024 (modMul p a.toNat b.toNat)) else none

/-- The multiplier used for the confusion exponent (R142, R147). -/
def exponentiator (p e : Nat) (a : Residue) : Option Residue :=
  if operandOk p a then some (BitVec.ofNat 1024 (modPow p e a.toNat)) else none

end Sys2Proof.Machine
end

