-- ==== Sys2Proof/Machine/Operands.lean ====
section
/-! DEFINITION. Operands: state residues, the words of the 1024-bit windows, bytes and blocks, all big-endian (R84). -/

namespace Sys2Proof.Machine

/-- `S[i]` (R21, R113). -/
def State.readS (s : State) (i : Index) : Residue := s.S[i.toNat]'i.isLt

/-- `S[i] <- v` (R19). -/
def State.writeS (s : State) (i : Index) (v : Residue) : State := { s with S := s.S.set i.toNat v i.isLt }

/-- Word `k` of a 1024-bit value, `V[1023-32k : 992-32k]` (R47, R49). -/
def windowWord (V : Residue) (k : Nat) : Word := V.extractLsb' (992 - 32 * k) 32

/-- `V` with bits `[1023-32k : 992-32k]` replaced by `w` (R47). -/
def putWindowWord (V : Residue) (k : Nat) (w : Word) : Residue :=
  (V &&& ~~~((0xFFFFFFFF : Residue) <<< (992 - 32 * k))) ||| (w.setWidth 1024 <<< (992 - 32 * k))

/-- The value of a 1024-bit value read word by word, word 0 first (R47: the concatenation of the words). -/
def joinWords (ws : List Word) : Nat := ws.foldl (fun acc w => acc * 2 ^ 32 + w.toNat) 0

/-- `BEval(s)` (R18). -/
def beVal (bytes : List Byte) : Nat := bytes.foldl (fun acc b => acc * 256 + b.toNat) 0

/-- `BE_n(v)` (R18): byte `j` is `v[8(n-1-j)+7 : 8(n-1-j)]`. -/
def beBytes (n v : Nat) : List Byte := upFrom (fun j => BitVec.ofNat 8 (v >>> (8 * (n - 1 - j)))) 0 n

/-- Byte `j` of the block buffer, for an offset below 64 (R25). -/
def blockByte (bb : Vector Byte 64) (j : Nat) : Byte := bb.getD j 0

/-- BB_WORD[k]: `BB[4k] ++ BB[4k+1] ++ BB[4k+2] ++ BB[4k+3]` (R48). -/
def bbWord (bb : Vector Byte 64) (k : Nat) : Word :=
  blockByte bb (4 * k) ++ blockByte bb (4 * k + 1) ++ blockByte bb (4 * k + 2) ++ blockByte bb (4 * k + 3)

/-- A write of BB_WORD[k] (R48): `BB[4k] <- w[31:24]`, ..., `BB[4k+3] <- w[7:0]`. -/
def putBbWord (bb : Vector Byte 64) (k : Nat) (w : Word) : Vector Byte 64 :=
  (((bb.setIfInBounds (4 * k) (w.extractLsb' 24 8)).setIfInBounds (4 * k + 1) (w.extractLsb' 16 8)).setIfInBounds
    (4 * k + 2) (w.extractLsb' 8 8)).setIfInBounds (4 * k + 3) (w.extractLsb' 0 8)

/-- The padded last block of ABSORB_LAST (R176): `BB[0..LEN) ++ [0x80] ++ [0x00] × (63 - LEN)`. -/
def lastBlock (bb : Vector Byte 64) (len : BitVec 6) : Vector Byte 64 :=
  tabulate 64 fun j => if j < len.toNat then blockByte bb j else if j = len.toNat then 0x80 else 0x00

/-- Chunk `c_j` of a block (R173): its bytes `8j` to `8j+7`, big-endian, mod P. -/
def blockChunk (p : Nat) (blk : Vector Byte 64) (j : Nat) : Nat :=
  beVal ((blk.toList.drop (8 * j)).take 8) % p

end Sys2Proof.Machine
end

