-- ==== Sys2Proof/Machine/Ops.lean ====
section
/-! DEFINITION. The named operations on the state: raising an error (this hardware's exception entry, R224, R230), the
completion of a command (R126), and reset, the only return from an error (R231). -/

namespace Sys2Proof.Machine

/-- What raising an error records (R29, R223): the first one since reset, and nothing if ERR = 1 already. -/
def State.recordError (s : State) (code : ErrCode) (w : Word) : State :=
  if s.err then s else { s with err := true, errcode := code, errcmd := w, errP := true }

/-- `INFLIGHT <- none; BUSY <- 0` (R126). -/
def State.complete (s : State) : State := { s with inflight := Option.none, busy := false }

/-- Completion of a command that raised no error: also `DONE_P <- 1` (R126). -/
def State.finish (s : State) : State := { s.complete with doneP := true }

/-- `raise Error(code)` during the command of word `w` (R224): none of its writes is performed, the error is recorded, the
command completes, DONE_P stays as it is. A meaning gives its own word, rebuilt with `encode` (log 14). -/
def State.raise (s : State) (code : ErrCode) (w : Word) : State := (s.recordError code w).complete

/-- The INTERNAL error (R228): as any error, but every `S[i]` is left unspecified, a fresh free value each (log 8). -/
def State.raiseInternal (s : State) (w : Word) : State :=
  { s with S := tabulate 512 (Config.freeResidue s.draws), draws := s.draws + 1 }.raise .internal w

/-- Every piece of the spec's state takes its reset value and the clear starts (R51, R250 to R252). The configuration is
not written (R34); what waits on the bus and the count of draws are the model's own. -/
def State.toReset (s : State) : State := { State.resetWith s.cfg with events := s.events, draws := s.draws }

/-- The end of the reset clear (R33, R251): every `S[i]` is 0, CLEARING and BUSY fall, DONE_P is not set. -/
def State.endClear (s : State) : State :=
  { s with S := Vector.replicate 512 0, clearing := false, busy := false }

/-- The core accepts command word `w` (R124): `INFLIGHT <- w; BUSY <- 1`. -/
def State.accept (s : State) (w : Word) : State := { s with inflight := some w, busy := true }

/-- A draw of a free word (I6: a fresh draw per read; log 7). -/
def State.drawWord (s : State) : Word × State := (Config.freeWord s.draws, { s with draws := s.draws + 1 })

/-- The core has accepted `w` as its only work, and completing it is what happens next (R97). -/
def State.placeCommand (s : State) (w : Word) : State :=
  { s.accept w with clearing := false, events := .core :: s.events }

end Sys2Proof.Machine
end

