-- ==== Sys2Proof/Machine/Bus.lean ====
section
/-! DEFINITION. The register window (R38 to R50): the register map, reads and writes. -/

namespace Sys2Proof.Machine

/-- A register of the map (R38). -/
inductive Reg
  | id
  | param
  | ctrl
  | status
  | cmd
  | irqStatus
  | blkcntLo
  | blkcntHi
  | errcmd
  | xWord (k : Nat)
  | bbWord (k : Nat)
  | dgWord (k : Nat)
  | reserved
deriving DecidableEq, Repr

/-- The register at a 4-aligned byte offset (R38). -/
def regAt (off : BitVec 12) : Reg :=
  let n := off.toNat
  if n = 0x000 then .id
  else if n = 0x004 then .param
  else if n = 0x008 then .ctrl
  else if n = 0x00C then .status
  else if n = 0x010 then .cmd
  else if n = 0x014 then .irqStatus
  else if n = 0x018 then .blkcntLo
  else if n = 0x01C then .blkcntHi
  else if n = 0x020 then .errcmd
  else if 0x080 ≤ n ∧ n < 0x100 then .xWord ((n - 0x080) / 4)
  else if 0x100 ≤ n ∧ n < 0x140 then .bbWord ((n - 0x100) / 4)
  else if 0x180 ≤ n ∧ n < 0x200 then .dgWord ((n - 0x180) / 4)
  else .reserved

/-- The word a register holds (R39 to R50). -/
def State.regWord (s : State) : Reg → Word
  | .id => 0x484C5331
  | .param => 0x40100200
  | .ctrl => s.ctrlWord
  | .status => s.statusWord
  | .cmd => 0
  | .irqStatus => s.irqStatusWord
  | .blkcntLo => s.blkcnt.extractLsb' 0 32
  | .blkcntHi => s.blkcnt.extractLsb' 32 32
  | .errcmd => s.errcmd
  | .xWord k => windowWord s.x k
  | .bbWord k => bbWord s.bb k
  | .dgWord k => windowWord s.dg k
  | .reserved => 0

/-- The registers whose read is unspecified while BUSY = 1 (R45, R47, R49, R90). -/
def Reg.unspecifiedWhileBusy : Reg → Bool
  | .blkcntLo | .blkcntHi | .xWord _ | .dgWord _ => true
  | .id | .param | .ctrl | .status | .cmd | .irqStatus | .errcmd | .bbWord _ | .reserved => false

/-- A read of a register: it changes nothing (R87) but the answer of the port. -/
def State.readReg (s : State) (r : Reg) : State :=
  if s.busy && r.unspecifiedWhileBusy then { s.drawWord.2 with reply := .data s.drawWord.1 }
  else { s with reply := .data (s.regWord r) }

/-- A write of CMD issues the command `w` (R43, R124). -/
def State.issue (s : State) (w : Word) : State :=
  if s.err then s
  else if s.busy then s.recordError .busyViolation w
  else s.accept w

/-- A write of CTRL (R41): bit 0 performs the soft reset (R252) and discards the rest, else bit 1 is IRQ_EN. -/
def State.writeCtrl (s : State) (w : Word) : State :=
  if w.getLsbD 0 then s.toReset else { s with irqEn := w.getLsbD 1 }

/-- A write to a data window while BUSY = 1 is dropped and raises BUSY_VIOLATION with ERRCMD 0 (R225). -/
def State.guardData (s written : State) : State :=
  if s.busy then s.recordError .busyViolation 0 else written

/-- What a write of `w` to a register does (R41, R43, R44, R47, R48); RO and reserved registers ignore it (R38, R50). -/
def State.writeReg (s : State) (r : Reg) (w : Word) : State :=
  match r with
  | .ctrl => s.writeCtrl w
  | .cmd => s.issue w
  | .irqStatus => s.clearPending w
  | .xWord k => s.guardData { s with x := putWindowWord s.x k w }
  | .bbWord k => s.guardData { s with bb := putBbWord s.bb k w }
  | .id | .param | .status | .blkcntLo | .blkcntHi | .errcmd | .dgWord _ | .reserved => s

/-- An access the port performs: 32 bits wide and 4-aligned (R82). -/
def accessOk (off : BitVec 12) (size : Nat) : Bool := size == 4 && off.toNat % 4 == 0

/-- One host access (R82): any other width or alignment gets a bus error and changes nothing (R222; log 11). -/
def State.access (s : State) : Access → State
  | .read off size => if accessOk off size then s.readReg (regAt off) else { s with reply := .busError }
  | .write off size v =>
    if accessOk off size then { s.writeReg (regAt off) v with reply := .ack } else { s with reply := .busError }

/-- The offset in the window of a platform address, if it lies in the window (R80; log 19). -/
def windowOffset (c : Config) (addr : Nat) : Option (BitVec 12) :=
  if c.base ≤ addr ∧ addr < c.base + 4096 then some (BitVec.ofNat 12 (addr - c.base)) else none

end Sys2Proof.Machine
end

