-- ==== Sys2Proof/Decode.lean ====
section
/-! DEFINITION. The decoder (R119), the encoder (R111, R112), the opcode map (R115) and the assembler (R120, R121). -/

namespace Sys2Proof

/-- Why a word is illegal (R116, R117). -/
inductive Illegal
  /-- A reserved opcode: 0x06, 0x07 or 0x0D to 0x1F (R116). -/
  | reservedOpcode
  /-- A defined opcode with a 1 in a bit its format reserves (R117). -/
  | reservedField
deriving DecidableEq, Repr

/-- OP, bits [31:27] (R111). -/
def opField (w : Word) : BitVec 5 := w.extractLsb' 27 5
/-- D, bits [26:18] (R111). -/
def dField (w : Word) : Index := w.extractLsb' 18 9
/-- A, bits [17:9] (R111). -/
def aField (w : Word) : Index := w.extractLsb' 9 9
/-- B, bits [8:0] (R111). -/
def bField (w : Word) : Index := w.extractLsb' 0 9
/-- LEN, bits [5:0] (R111). -/
def lenField (w : Word) : BitVec 6 := w.extractLsb' 0 6
/-- `w[8:6]`, the bits of the B field above LEN, reserved in format L (R112). -/
def bHighField (w : Word) : BitVec 3 := w.extractLsb' 6 3

/-- A word whose opcode is defined is the command `i` if its reserved bits are 0 (R117). -/
def guardReserved (reservedZero : Bool) (i : Instr) : Except Illegal Instr :=
  if reservedZero then .ok i else .error .reservedField

/-- The decode function (R119), total on every 32-bit word. -/
def decode (w : Word) : Except Illegal Instr :=
  let d := dField w
  let a := aField w
  let b := bField w
  match (opField w).toNat with
  | 0x00 => guardReserved (d == 0 && a == 0 && b == 0) .nop
  | 0x01 => guardReserved (d == 0 && a == 0 && b == 0) .init
  | 0x02 => guardReserved (d == 0 && a == 0 && b == 0) .absorb
  | 0x03 => guardReserved (d == 0 && a == 0 && bHighField w == 0) (.absorbLast (lenField w))
  | 0x04 => guardReserved (d == 0 && a == 0 && b == 0) .permute
  | 0x05 => guardReserved (d == 0 && a == 0 && b == 0) .squeeze
  | 0x08 => guardReserved (a == 0 && b == 0) (.wrs d)
  | 0x09 => guardReserved (d == 0 && b == 0) (.rds a)
  | 0x0A => .ok (.modadd d a b)
  | 0x0B => .ok (.modmul d a b)
  | 0x0C => guardReserved (b == 0) (.modpow d a)
  | _ => .error .reservedOpcode

/-- A word from its fields OP, D, A, B (R111). -/
def assembleFields (op : BitVec 5) (d a b : Index) : Word := op ++ d ++ a ++ b

/-- The word of a command (R112, R115, R120). -/
def encode : Instr → Word
  | .nop => assembleFields 0x00 0 0 0
  | .init => assembleFields 0x01 0 0 0
  | .absorb => assembleFields 0x02 0 0 0
  | .absorbLast len => assembleFields 0x03 0 0 (len.setWidth 9)
  | .permute => assembleFields 0x04 0 0 0
  | .squeeze => assembleFields 0x05 0 0 0
  | .wrs d => assembleFields 0x08 d 0 0
  | .rds a => assembleFields 0x09 0 a 0
  | .modadd d a b => assembleFields 0x0A d a b
  | .modmul d a b => assembleFields 0x0B d a b
  | .modpow d a => assembleFields 0x0C d a 0

/-- A row of the opcode map (R115): a word `w` is of the row when `w &&& mask = pattern`. -/
structure OpcodeRow where
  pattern : Word
  mask : Word
deriving DecidableEq, Repr

/-- The row of R115 that a command belongs to. -/
def opcodeRow : Instr → OpcodeRow
  | .nop => ⟨0x00000000, 0xFFFFFFFF⟩
  | .init => ⟨0x08000000, 0xFFFFFFFF⟩
  | .absorb => ⟨0x10000000, 0xFFFFFFFF⟩
  | .absorbLast _ => ⟨0x18000000, 0xFFFFFFC0⟩
  | .permute => ⟨0x20000000, 0xFFFFFFFF⟩
  | .squeeze => ⟨0x28000000, 0xFFFFFFFF⟩
  | .wrs _ => ⟨0x40000000, 0xF803FFFF⟩
  | .rds _ => ⟨0x48000000, 0xFFFC01FF⟩
  | .modadd _ _ _ => ⟨0x50000000, 0xF8000000⟩
  | .modmul _ _ _ => ⟨0x58000000, 0xF8000000⟩
  | .modpow _ _ => ⟨0x60000000, 0xF80001FF⟩

/-- The opcode map, in the table's order (R115). -/
def opcodeMap : List OpcodeRow :=
  [opcodeRow .nop, opcodeRow .init, opcodeRow .absorb, opcodeRow (.absorbLast 0), opcodeRow .permute,
    opcodeRow .squeeze, opcodeRow (.wrs 0), opcodeRow (.rds 0), opcodeRow (.modadd 0 0 0),
    opcodeRow (.modmul 0 0 0), opcodeRow (.modpow 0 0)]

/-- `w` matches the row (R115). -/
def OpcodeRow.matchesWord (r : OpcodeRow) (w : Word) : Bool := w &&& r.mask == r.pattern

/-- The instruction the decoder reads from the table's bits `w` of a row of `nbits` bits; bits above `nbits` are 0. A
command word is an integer on the bus, with no byte order of its own (R85, R110). -/
def decodeTableWord (nbits w : Nat) : Option Instr :=
  match decode (BitVec.ofNat 32 (w % 2 ^ nbits)) with
  | .ok i => some i
  | .error _ => none

/-- The commands a source line stands for (R120, R121); `none` where the assembler refuses it. -/
def assemble (l : AsmLine) : Option (List Instr) :=
  if l.wellFormed then
    some (match l with
      | .nop => [.nop]
      | .init => [.init]
      | .absorb => [.absorb]
      | .absorbLast len => [.absorbLast (BitVec.ofNat 6 len)]
      | .permute => [.permute]
      | .squeeze => [.squeeze]
      | .wrs sd => [.wrs (BitVec.ofNat 9 sd)]
      | .rds sa => [.rds (BitVec.ofNat 9 sa)]
      | .modadd sd sa sb => [.modadd (BitVec.ofNat 9 sd) (BitVec.ofNat 9 sa) (BitVec.ofNat 9 sb)]
      | .modmul sd sa sb => [.modmul (BitVec.ofNat 9 sd) (BitVec.ofNat 9 sa) (BitVec.ofNat 9 sb)]
      | .modpow sd sa => [.modpow (BitVec.ofNat 9 sd) (BitVec.ofNat 9 sa)]
      | .modsqr sd sa => [.modmul (BitVec.ofNat 9 sd) (BitVec.ofNat 9 sa) (BitVec.ofNat 9 sa)]
      | .moddbl sd sa => [.modadd (BitVec.ofNat 9 sd) (BitVec.ofNat 9 sa) (BitVec.ofNat 9 sa)]
      | .movs sd sa => [.rds (BitVec.ofNat 9 sa), .wrs (BitVec.ofNat 9 sd)]
      | .absorbEmptyLast => [.absorbLast 0])
  else none

end Sys2Proof
end

