-- ==== Sys2Proof/Machine/Permutation.lean ====
section
/-! DEFINITION. The permutation engine, its round-constant sequencer, and PERMUTE (43_permutation.md). -/

namespace Sys2Proof.Machine

/-- `Dv[i]` of the diffusion step (R192): the sum of `S[(i + k) mod 512]` over OFF, reduced once. -/
def diffuse (p : Nat) (S : Vector Residue 512) (i : Nat) : Nat :=
  (diffusionOffsets.map fun k => (S[(i + k) % 512]'(Nat.mod_lt _ (by decide))).toNat).sum % p

/-- `RC[r][i]` (R13). -/
def roundConstant (c : Config) (r : BitVec 4) (i : Nat) : Nat := ((c.rc[r.toNat]'r.isLt).getD i 0).toNat

/-- `Round(S, r)` (R190, R192): diffusion, round-constant injection, confusion. -/
def round (c : Config) (S : Vector Residue 512) (r : BitVec 4) : Vector Residue 512 :=
  tabulate 512 fun i =>
    BitVec.ofNat 1024 (modPow c.p c.e (modAdd c.p (diffuse c.p S i) (roundConstant c r i)))

/-- The values RNDCTR takes in a permutation, in order (R191). -/
def roundIndices : List (BitVec 4) := upFrom (BitVec.ofNat 4) 0 rounds

/-- `Permute(S)` (R195): the 16 rounds in order. -/
def permute (c : Config) (S : Vector Residue 512) : Vector Residue 512 := roundIndices.foldl (round c) S

/-- One round of the sequencer (R191, R196): `RNDCTR <- r; S <- Round(S, r)`. -/
def State.runRound (s : State) (r : BitVec 4) : State := { s with rndctr := r, S := round s.cfg s.S r }

/-- The rounds of a permutation on the state register file, after which RNDCTR is 0 (R191, R196). -/
def State.runPermutation (s : State) : State := { roundIndices.foldl State.runRound s with rndctr := 0 }

/-- No unit sees an operand `>= P` in a permutation of `S` (R144, R196, R228; log 15). -/
def permutationOk (c : Config) (S : Vector Residue 512) : Bool :=
  allBelow c.p S && c.rc.toList.all (allBelow c.p)

/-- PERMUTE (R196). -/
def execPermute (s : State) : Host.Outcome State Fault Refusal :=
  if permutationOk s.cfg s.S then .next s.runPermutation.finish
  else .next (s.raiseInternal (encode .permute))

end Sys2Proof.Machine
end

