-- ==== Sys2Proof/Machine/Absorb.lean ====
section
/-! DEFINITION. INIT, ABSORB, ABSORB_LAST (42_init_absorb.md). -/

namespace Sys2Proof.Machine

/-- `S'` of R174: the block's eight chunks are added into `S[0..7]`. -/
def addBlock (p : Nat) (S : Vector Residue 512) (blk : Vector Byte 64) : Vector Residue 512 :=
  tabulate 512 fun i =>
    if i < 8 then BitVec.ofNat 1024 (modAdd p (S.getD i 0).toNat (blockChunk p blk i)) else S.getD i 0

/-- `AbsorbBlock(S, blk)` (R174). -/
def absorbBlock (c : Config) (S : Vector Residue 512) (blk : Vector Byte 64) : Vector Residue 512 :=
  permute c (addBlock c.p S blk)

/-- What both absorb commands do with their block (R175, R176): the checks in the order of R226, then the absorption and
`BLKCNT <- BLKCNT + 1`; `after` is the phase left. -/
def State.absorb (s : State) (w : Word) (blk : Vector Byte 64) (after : Phase) : State :=
  if s.phase ≠ .absorbing then s.raise .sequence w
  else if s.blkcnt = blkcntMax then s.raise .inputTooLarge w
  else if permutationOk s.cfg s.S then
    { { s with S := addBlock s.cfg.p s.S blk }.runPermutation with blkcnt := s.blkcnt + 1, phase := after }.finish
  else s.raiseInternal w

/-- INIT (R170). The check is R228's: "INIT checks `IV[i] < P` as it copies". -/
def execInit (s : State) : Host.Outcome State Fault Refusal :=
  if allBelow s.cfg.p s.cfg.iv then
    .next { s with S := s.cfg.iv, blkcnt := 0, dg := 0, phase := .absorbing }.finish
  else .next (s.raiseInternal (encode .init))

/-- ABSORB (R175): the block is `BB[0..64)`. -/
def execAbsorb (s : State) : Host.Outcome State Fault Refusal :=
  .next (s.absorb (encode .absorb) s.bb .absorbing)

/-- ABSORB_LAST (R176): the block is the padded last block, and PHASE becomes FINAL. -/
def execAbsorbLast (len : BitVec 6) (s : State) : Host.Outcome State Fault Refusal :=
  .next (s.absorb (encode (.absorbLast len)) (lastBlock s.bb len) .final)

end Sys2Proof.Machine
end

