-- ==== Sys2Proof/Machine/Arith.lean ====
section
/-! DEFINITION. MODADD, MODMUL, MODPOW (40_modular_arithmetic.md). -/

namespace Sys2Proof.Machine

/-- A unit's result goes to `S[d]`, the sources having been read before (R143); its failure raises INTERNAL (R144). -/
def State.writeResult (s : State) (d : Index) (w : Word) : Option Residue → State
  | some v => (s.writeS d v).finish
  | Option.none => s.raiseInternal w

/-- MODADD (R145). -/
def execModadd (d a b : Index) (s : State) : Host.Outcome State Fault Refusal :=
  .next (s.writeResult d (encode (.modadd d a b)) (adder s.cfg.p (s.readS a) (s.readS b)))

/-- MODMUL (R146). -/
def execModmul (d a b : Index) (s : State) : Host.Outcome State Fault Refusal :=
  .next (s.writeResult d (encode (.modmul d a b)) (multiplier s.cfg.p (s.readS a) (s.readS b)))

/-- MODPOW (R147). -/
def execModpow (d a : Index) (s : State) : Host.Outcome State Fault Refusal :=
  .next (s.writeResult d (encode (.modpow d a)) (exponentiator s.cfg.p s.cfg.e (s.readS a)))

end Sys2Proof.Machine
end

