-- ==== Sys2Proof/Machine/Control.lean ====
section
/-! DEFINITION. SQUEEZE and NOP (44_squeeze_control.md). -/

namespace Sys2Proof.Machine

/-- SQUEEZE (R210, R213: no permutation). -/
def execSqueeze (s : State) : Host.Outcome State Fault Refusal :=
  if s.phase ≠ .final then .next (s.raise .sequence (encode .squeeze))
  else .next { s with dg := s.readS 0 }.finish

/-- NOP (R212): nothing but its completion. -/
def execNop (s : State) : Host.Outcome State Fault Refusal := .next s.finish

end Sys2Proof.Machine
end

