-- ==== Sys2Proof/Machine/Transfer.lean ====
section
/-! DEFINITION. WRS and RDS (41_state_transfer.md). -/

namespace Sys2Proof.Machine

/-- WRS (R160): a value `>= P` raises RANGE and leaves S as it was. -/
def execWrs (d : Index) (s : State) : Host.Outcome State Fault Refusal :=
  if operandOk s.cfg.p s.x then .next (s.writeS d s.x).finish
  else .next (s.raise .range (encode (.wrs d)))

/-- RDS (R161). -/
def execRds (a : Index) (s : State) : Host.Outcome State Fault Refusal :=
  .next { s with x := s.readS a }.finish

end Sys2Proof.Machine
end

