-- ==== Sys2Proof/Machine/Dispatch.lean ====
section
/-! DEFINITION. The meaning of each command, one arm per constructor of Instr. -/

namespace Sys2Proof.Machine

def exec (i : Instr) (s : State) : Host.Outcome State Fault Refusal :=
  match i with
  | .nop => Sys2Proof.Machine.execNop s
  | .init => Sys2Proof.Machine.execInit s
  | .absorb => Sys2Proof.Machine.execAbsorb s
  | .absorbLast len => Sys2Proof.Machine.execAbsorbLast len s
  | .permute => Sys2Proof.Machine.execPermute s
  | .squeeze => Sys2Proof.Machine.execSqueeze s
  | .wrs d => Sys2Proof.Machine.execWrs d s
  | .rds a => Sys2Proof.Machine.execRds a s
  | .modadd d a b => Sys2Proof.Machine.execModadd d a b s
  | .modmul d a b => Sys2Proof.Machine.execModmul d a b s
  | .modpow d a => Sys2Proof.Machine.execModpow d a s

end Sys2Proof.Machine
end

