-- ==== Sys2Proof/Machine/Sequencer.lean ====
section
/-! DEFINITION. What happens next: the core's own move and the outside events (R97, R123 to R126, R251). -/

namespace Sys2Proof.Machine

/-- The core's own move: it ends the reset clear (R251), or executes and completes the command in flight (R125, R126); an
illegal word raises ILLEGAL_CMD (R116, R117). With no work it is idle and keeps all state (R238). -/
def State.coreMove (s : State) : Host.Outcome State Fault Refusal :=
  if s.clearing then .next s.endClear
  else
    match s.inflight with
    | Option.none => .next s
    | some w =>
      match decode w with
      | .ok i => exec i s
      | .error _ => .next (s.raise .illegalCmd w)

/-- What one event does. -/
def State.take (s : State) : Event → Host.Outcome State Fault Refusal
  | .core => s.coreMove
  | .bus a => .next (s.access a)
  | .resetPin => .next s.toReset

/-- The next event in order; when none waits, the core completes the work it has (R262; log 5). -/
def State.nextMove (s : State) : Host.Outcome State Fault Refusal :=
  match s.events with
  | [] => s.coreMove
  | e :: rest => { s with events := rest }.take e

end Sys2Proof.Machine
end

