-- ==== Sys2Proof/Machine/Step.lean ====
section
/-! DEFINITION. The step, and how one command is placed where the next step executes it. -/

namespace Sys2Proof.Machine

/-- One step (R97): one event. -/
def step (s : State) : Host.Outcome State Fault Refusal := s.nextMove

/-- `s` with the command word of the table's bits `w` in flight and its completion the next event (log 10). The core fetches
nothing (R36): INFLIGHT is where the word it executes stands (R31). -/
def State.withFetchWord (s : State) (nbits w : Nat) : State := s.placeCommand (BitVec.ofNat 32 (w % 2 ^ nbits))

end Sys2Proof.Machine
end

