-- ==== Sys2Proof/Machine/Digest.lean ====
section
/-! DEFINITION. The reference function `DigestRef` (R214) and its parts `Pad` (R172), `BlockToResidues`' use (R174) and
`Squeeze` (R211). -/

namespace Sys2Proof.Machine

/-- `Pad(M)` (R172). -/
def pad (m : List Byte) : List Byte := m ++ [0x80] ++ List.replicate (63 - m.length % 64) 0x00

/-- Block `B_j` of a padded byte string (R172): its bytes `[64j, 64j+64)`. -/
def blockAt (bytes : List Byte) (j : Nat) : Vector Byte 64 := tabulate 64 fun i => bytes.getD (64 * j + i) 0

/-- The blocks of `Pad(M)` in order (R172): `n = len(M) div 64 + 1` of them. -/
def padBlocks (m : List Byte) : List (Vector Byte 64) := upFrom (blockAt (pad m)) 0 (m.length / 64 + 1)

/-- `Squeeze(S)` (R211). -/
def squeeze (S : Vector Residue 512) : List Byte := beBytes 128 (S.getD 0 0).toNat

/-- `DigestRef(M)` (R214). The rule states it for messages of at most `64 * (2^64 - 1) - 1` bytes; that this function answers
a longer one by the same formula is the model's choice (log 22): the machine raises INPUT_TOO_LARGE there (R178). -/
def digestRef (c : Config) (m : List Byte) : List Byte := squeeze ((padBlocks m).foldl (absorbBlock c) c.iv)

end Sys2Proof.Machine
end

