-- ==== Sys2Proof/Machine/HostOps.lean ====
section
/-! DEFINITION. The host: its accesses, the pseudo-operations (R122) with the values they return, and the digest procedure
(R215), each run on the machine by `step`. -/

namespace Sys2Proof.Machine

/-- `MemWrite(off, 4, v)` (R19). -/
def memWrite (off : Nat) (v : Word) : Event := .bus (.write (BitVec.ofNat 12 off) 4 v)

/-- `MemRead(off, 4)` (R19). -/
def memRead (off : Nat) : Event := .bus (.read (BitVec.ofNat 12 off) 4)

/-- The accesses of `WRX v` (R122). -/
def hostWrx (v : Residue) : List Event := upFrom (fun k => memWrite (0x080 + 4 * k) (windowWord v k)) 0 32

/-- The accesses of `RDX` (R122). -/
def hostRdx : List Event := upFrom (fun k => memRead (0x080 + 4 * k)) 0 32

/-- The accesses of `WRBB m` (R122), `len(m) <= 64`: `m` with zero bytes up to 64. -/
def hostWrbb (m : List Byte) : List Event :=
  upFrom (fun k => memWrite (0x100 + 4 * k) (bbWord (blockAt m 0) k)) 0 16

/-- The accesses of `RDDG` (R122). -/
def hostRddg : List Event := upFrom (fun k => memRead (0x180 + 4 * k)) 0 32

/-- The access of `ISSUE c` (R122). -/
def hostIssue (i : Instr) : Event := memWrite 0x010 (encode i)

/-- An outcome, and what follows if it is a next state. -/
def andThen {α β : Type} (o : Host.Outcome α Fault Refusal) (f : α → Host.Outcome β Fault Refusal) :
    Host.Outcome β Fault Refusal :=
  match o with
  | .next a => f a
  | .fault r => .fault r
  | .refused r => .refused r

/-- The step in which `e` happens before whatever else waits (R90). -/
def State.happens (s : State) (e : Event) : Host.Outcome State Fault Refusal := step { s with events := e :: s.events }

/-- The word a read returned; no word from any other answer. -/
def BusReply.words : BusReply → List Word
  | .idle => []
  | .data w => [w]
  | .ack => []
  | .busError => []

/-- A sequence of writes, one step each. -/
def State.hostWrites : List Event → State → Host.Outcome State Fault Refusal
  | [], s => .next s
  | e :: es, s => andThen (s.happens e) (State.hostWrites es)

/-- A sequence of reads, one step each, with the words they return in order. -/
def State.hostReads : List Event → State → Host.Outcome (List Word × State) Fault Refusal
  | [], s => .next ([], s)
  | e :: es, s => andThen (s.happens e) fun t =>
      andThen (State.hostReads es t) fun r => .next (t.reply.words ++ r.1, r.2)

/-- The value of a window from its words, `w_0 ++ ... ++ w_31` (R122). -/
def windowValue (r : List Word × State) : Residue × State := (BitVec.ofNat 1024 (joinWords r.1), r.2)

/-- `WRX v` (R122). -/
def State.wrx (s : State) (v : Residue) : Host.Outcome State Fault Refusal := s.hostWrites (hostWrx v)

/-- `RDX -> v` (R122). -/
def State.rdx (s : State) : Host.Outcome (Residue × State) Fault Refusal :=
  andThen (s.hostReads hostRdx) fun r => .next (windowValue r)

/-- `WRBB m` (R122). -/
def State.wrbb (s : State) (m : List Byte) : Host.Outcome State Fault Refusal := s.hostWrites (hostWrbb m)

/-- `RDDG -> v` (R122). -/
def State.rddg (s : State) : Host.Outcome (Residue × State) Fault Refusal :=
  andThen (s.hostReads hostRddg) fun r => .next (windowValue r)

/-- The word last read shows BUSY = 1 (R42). -/
def State.readBusy (s : State) : Bool := s.reply.words.any fun w => w.getLsbD 0

/-- `POLL` (R122): `repeat s = MemRead(0x00C, 4) until s[0] = 0`. `schedule` says, for each read in turn, whether the core
makes its move before it; where the schedule ends, the core makes its move (R262) and one read follows (log 20). -/
def State.poll : List Bool → State → Host.Outcome State Fault Refusal
  | [], s => andThen (s.happens .core) fun t => t.happens (memRead 0x00C)
  | moves :: schedule, s =>
      andThen (if moves then s.happens .core else .next s) fun t =>
      andThen (t.happens (memRead 0x00C)) fun u =>
      if u.readBusy then State.poll schedule u else .next u

/-- A command line of a listing: `ISSUE c; POLL` (R122). -/
def State.line (s : State) (i : Instr) (schedule : List Bool) : Host.Outcome State Fault Refusal :=
  andThen (s.happens (hostIssue i)) (State.poll schedule)

/-- The loop of R215 over the first `n` full blocks: for each, `WRBB` and `ABSORB`. POLL number `j` runs by `schedules j`,
that of INIT being number 0. -/
def State.hostBlocks (schedules : Nat → List Bool) (m : List Byte) : Nat → State → Host.Outcome State Fault Refusal
  | 0, s => .next s
  | n + 1, s =>
      andThen (State.hostBlocks schedules m n s) fun t =>
      andThen (t.wrbb ((m.drop (64 * n)).take 64)) fun u => u.line .absorb (schedules (n + 1))

/-- The host digest procedure (R215): INIT, the full blocks, the padded last block, SQUEEZE, and RDDG, whose value's 128
bytes it returns with the state at the end. -/
def State.hostDigest (s : State) (schedules : Nat → List Bool) (m : List Byte) :
    Host.Outcome (List Byte × State) Fault Refusal :=
  let full := m.length / 64
  andThen (s.line .init (schedules 0)) fun s1 =>
  andThen (State.hostBlocks schedules m full s1) fun s2 =>
  andThen (s2.wrbb (m.drop (64 * full))) fun s3 =>
  andThen (s3.line (.absorbLast (BitVec.ofNat 6 (m.length % 64))) (schedules (full + 1))) fun s4 =>
  andThen (s4.line .squeeze (schedules (full + 2))) fun s5 =>
  andThen s5.rddg fun r => .next (beBytes 128 r.1.toNat, r.2)

end Sys2Proof.Machine
end

