-- ==== Sys2Proof/Safety.lean ====
section
/-! DEFINITION. What counts as a sound state, as a halted one, and which outside events are a reset. -/

namespace Sys2Proof.Machine

/-- Every state residue is in `[0, P)` (the invariant of R22). -/
abbrev State.ResiduesBelow (s : State) : Prop := ∀ i : Index, (s.readS i).toNat < s.cfg.p

/-- What the spec says of every state a run can reach. Each field names the rule it comes from. -/
structure State.Sound (s : State) : Prop where
  /-- R22: "`S[i] < P` for every i". -/
  residues : s.ResiduesBelow
  /-- R31: "`BUSY` is 1 exactly while a command is in flight ... or the reset clear is in progress". -/
  busy_exact : s.busy = (s.inflight.isSome || s.clearing)
  /-- R31, R124: no command is accepted while the clear runs. -/
  clear_alone : s.clearing = true → s.inflight = Option.none
  /-- R32: RNDCTR is 0 when no permutation is being computed; that no state between two steps is inside one is the model's
  one-step execution (log 6). -/
  rndctr_zero : s.rndctr = 0
  /-- R220: the code NONE says "no error since reset". -/
  err_recorded : s.err = false ↔ s.errcode = ErrCode.none
  /-- R29: ERRCMD is written only when the first error is raised. -/
  errcmd_zero : s.err = false → s.errcmd = 0
  /-- R29, R30: ERR_P is set only by the first error. -/
  errP_err : s.errP = true → s.err = true
  /-- R26: only SQUEEZE writes DG, and INIT and reset clear it. -/
  dg_final : s.phase ≠ .final → s.dg = 0
  /-- R26, R211: the digest is a residue. -/
  dg_below : s.dg.toNat < s.cfg.p
  /-- R27: BLKCNT counts "the blocks absorbed since the last INIT or reset". -/
  blkcnt_uninit : s.phase = .uninit → s.blkcnt = 0
  /-- R27, R28: FINAL is entered by an absorption. -/
  blkcnt_final : s.phase = .final → s.blkcnt ≠ 0

/-- The outside events that reset the core (R250, R252): the pin, and a write to CTRL with bit 0 = 1. -/
def Event.isReset : Event → Bool
  | .core => false
  | .bus (.read _ _) => false
  | .bus (.write off size v) => accessOk off size && (regAt off == .ctrl) && v.getLsbD 0
  | .resetPin => true

/-- `t` is `s` but for what the bus port answers (R82, R87): every piece of the spec's state is the same. -/
abbrev State.SameBehindPort (s t : State) : Prop := { t with reply := s.reply, draws := s.draws } = s

end Sys2Proof.Machine
end

