-- ==== Sys2Proof/Certificates/Slice0/Obligations.lean ====
section
/-! DEFINITION. The statements about the HLS1024 core, each from the rules its docstring names. -/

open Sys2Proof Sys2Proof.Machine

/-! ## Encoding (30_encoding.md) -/

/-- Decoding the word of a command gives the command back, every operand at every value (R111, R112, R119). -/
def Obligations.DecodeEncode : Prop := ∀ i : Instr, decode (encode i) = .ok i

/-- A legal word is the word of the command it decodes to: no bit of it is ignored (R117, R119). -/
def Obligations.EncodeDecode : Prop := ∀ (w : Word) (i : Instr), decode w = .ok i → encode i = w

/-- R115: a word selects a command exactly when it matches the command's row, and at most one row matches. -/
def Obligations.DecodeFollowsOpcodeMap : Prop :=
  ∀ w : Word,
    (∀ i, decode w = .ok i → w &&& (opcodeRow i).mask = (opcodeRow i).pattern ∧ opcodeRow i ∈ opcodeMap) ∧
    (∀ row ∈ opcodeMap, w &&& row.mask = row.pattern → ∃ i, decode w = .ok i ∧ opcodeRow i = row) ∧
    (∀ r ∈ opcodeMap, ∀ r' ∈ opcodeMap, w &&& r.mask = r.pattern → w &&& r'.mask = r'.pattern → r = r')

/-- Words written out bit by bit from the encodings decode to their commands, and words with a reserved bit or opcode do not
(R120's example words, the decode table of 95_test_vectors.md). -/
def Obligations.WordsDecodeAsWritten : Prop :=
  decode 0b00000000000000000000000000000000 = .ok .nop ∧
  decode 0b00001000000000000000000000000000 = .ok .init ∧
  decode 0b00011000000000000000000000000011 = .ok (.absorbLast 3) ∧
  decode 0b00100000000000000000000000000000 = .ok .permute ∧
  decode 0b00101000000000000000000000000000 = .ok .squeeze ∧
  decode 0b01000000000101000000000000000000 = .ok (.wrs 5) ∧
  decode 0b01001000000000000000101000000000 = .ok (.rds 5) ∧
  decode 0b01010000000011000000001000000010 = .ok (.modadd 3 1 2) ∧
  decode 0b01100000000100000000011000000000 = .ok (.modpow 4 3) ∧
  decode 0b00011000000000000000000001000000 = .error .reservedField ∧
  decode 0b01100000000100000000011000000001 = .error .reservedField ∧
  decode 0b01101000000000000000000000000000 = .error .reservedOpcode

/-- R120: the assembler refuses an index outside 0 to 511 and a LEN outside 0 to 63, and the word of an accepted line is
`OP << 27 | D << 18 | A << 9 | B` (or `| LEN`). -/
def Obligations.AssembledWordValue : Prop :=
  (∀ sd sa sb : Nat,
    (sd < 512 ∧ sa < 512 ∧ sb < 512 → ∃ i j, assemble (.modadd sd sa sb) = some [i] ∧ assemble (.modmul sd sa sb) = some [j] ∧
      (encode i).toNat = 0x0A * 2 ^ 27 + sd * 2 ^ 18 + sa * 2 ^ 9 + sb ∧
      (encode j).toNat = 0x0B * 2 ^ 27 + sd * 2 ^ 18 + sa * 2 ^ 9 + sb) ∧
    (¬ (sd < 512 ∧ sa < 512 ∧ sb < 512) → assemble (.modadd sd sa sb) = none ∧ assemble (.modmul sd sa sb) = none)) ∧
  (∀ sd sa : Nat,
    (sd < 512 ∧ sa < 512 → ∃ i, assemble (.modpow sd sa) = some [i] ∧
      (encode i).toNat = 0x0C * 2 ^ 27 + sd * 2 ^ 18 + sa * 2 ^ 9) ∧
    (¬ (sd < 512 ∧ sa < 512) → assemble (.modpow sd sa) = none)) ∧
  (∀ sd : Nat,
    (sd < 512 → ∃ i, assemble (.wrs sd) = some [i] ∧ (encode i).toNat = 0x08 * 2 ^ 27 + sd * 2 ^ 18) ∧
    (¬ sd < 512 → assemble (.wrs sd) = none)) ∧
  (∀ sa : Nat,
    (sa < 512 → ∃ i, assemble (.rds sa) = some [i] ∧ (encode i).toNat = 0x09 * 2 ^ 27 + sa * 2 ^ 9) ∧
    (¬ sa < 512 → assemble (.rds sa) = none)) ∧
  (∀ len : Nat,
    (len < 64 → ∃ i, assemble (.absorbLast len) = some [i] ∧ (encode i).toNat = 0x03 * 2 ^ 27 + len) ∧
    (¬ len < 64 → assemble (.absorbLast len) = none))

/-- R116, R117: a command word with a reserved opcode, and any word that matches no row of the opcode map, raises ILLEGAL_CMD and
has no other effect. The hypotheses: the word is in flight, and ERR = 0 (with ERR = 1 nothing is recorded:
`ErrorWhileHaltedOnlyCompletes`). -/
def Obligations.IllegalWordRaisesIllegalCommand : Prop :=
  ∀ (s : State) (w : Word), s.clearing = false → s.inflight = some w → s.err = false →
    ((w >>> 27).toNat = 0x06 ∨ (w >>> 27).toNat = 0x07 ∨ 0x0D ≤ (w >>> 27).toNat ∨
      ∀ row ∈ opcodeMap, w &&& row.mask ≠ row.pattern) →
    s.coreMove = .next { s with
      err := true, errcode := .illegalCmd, errcmd := w, errP := true, inflight := none, busy := false }

/-! ## The step -/

/-- When the next event is the core's own move and the word in flight decodes to `i`, the step is `exec i` on the state whose
first event is taken. The same holds when no event waits. That events wait in a list is the model's choice (log 4, log 5). -/
def Obligations.StepRunsDecodedCommand : Prop :=
  ∀ (s : State) (w : Word) (i : Instr), s.clearing = false → s.inflight = some w → decode w = .ok i →
    (∀ rest, s.events = .core :: rest → step s = exec i { s with events := rest }) ∧
    (s.events = [] → step s = exec i s)

/-- Every step answers a next state: no command, access or reset stops the machine (R262: "the core cannot hang"; R224: an
error is a state). Two of these steps are the model's choice: an access of the wrong width or alignment answers a bus error,
where R82 and I14 have a model refuse it (log 11), and a step with no event and no work keeps the state (log 5). -/
def Obligations.StepAlwaysAnswersNext : Prop := ∀ s : State, ∃ t, step s = .next t

/-- R126: every command that executes completes: INFLIGHT is none and BUSY is 0; with ERR = 0 at the end DONE_P is 1; a
command that raises the first error leaves DONE_P as it was and its word in ERRCMD (log 14). -/
def Obligations.EveryCommandCompletes : Prop :=
  ∀ (i : Instr) (s : State), ∃ t, exec i s = .next t ∧ t.inflight = none ∧ t.busy = false ∧
    (s.doneP = true → t.doneP = true) ∧ (t.err = false → t.doneP = true) ∧
    (s.err = false → t.err = true → t.doneP = s.doneP ∧ t.errcmd = encode i ∧ t.errP = true)

/-- A sound state stays sound through every step: the invariants of R22, R26 to R32 and R220 (see `State.Sound`). That RNDCTR
is 0 in every state, also with a permutation in flight, is the model's one-step execution (log 6). -/
def Obligations.StepKeepsSound : Prop := ∀ s t : State, s.Sound → step s = .next t → t.Sound

/-- The state after reset is sound, for every configuration. -/
def Obligations.ResetIsSound : Prop := ∀ c : Config, (State.resetWith c).Sound

/-- R22: in every reachable state `S[i] < P`, whatever events the outside sends and in whatever order, for every
configuration. -/
def Obligations.ReachableResiduesBelowModulus : Prop :=
  ∀ (c : Config) (es : List Event) (n : Nat) (t : State),
    Host.Core.run Sys2Proof.core n { State.resetWith c with events := es } = .next t →
    ∀ i : Index, (t.readS i).toNat < t.cfg.p

/-- Only a reset clears the recorded error (R29, R224, R231): a step from a halted state that takes no reset event keeps ERR,
ERRCODE and ERRCMD. -/
def Obligations.OnlyResetLeavesHalt : Prop :=
  ∀ s t : State, s.err = true → (∀ e rest, s.events = e :: rest → e.isReset = false) → step s = .next t →
    t.err = true ∧ t.errcode = s.errcode ∧ t.errcmd = s.errcmd

/-- R34: no command, host access or reset writes the configuration, and no read of the host shows it. -/
def Obligations.ConfigurationIsReadOnly : Prop :=
  (∀ s t : State, step s = .next t → t.cfg = s.cfg) ∧
  (∀ (s : State) (c : Config) (off : BitVec 12) (size : Nat),
    ({ s with cfg := c }.access (.read off size)).reply = (s.access (.read off size)).reply)

/-- R26: no step but the completion of SQUEEZE or INIT and a reset changes DG. -/
def Obligations.DigestChangesOnlyBySqueezeInitReset : Prop :=
  ∀ s t : State, step s = .next t → t.dg ≠ s.dg →
    s.inflight = some (encode .squeeze) ∨ s.inflight = some (encode .init) ∨
    ∃ e rest, s.events = e :: rest ∧ e.isReset = true

/-- R27: a step leaves BLKCNT, or adds exactly 1 to it as an integer with ABSORB or ABSORB_LAST in flight, or sets it to 0 with
INIT in flight or by a reset; so it never wraps. -/
def Obligations.BlockCounterNeverWraps : Prop :=
  ∀ s t : State, step s = .next t →
    t.blkcnt = s.blkcnt ∨
    (t.blkcnt.toNat = s.blkcnt.toNat + 1 ∧
      (s.inflight = some (encode .absorb) ∨ ∃ len, s.inflight = some (encode (.absorbLast len)))) ∨
    (t.blkcnt = 0 ∧
      (s.inflight = some (encode .init) ∨ ∃ e rest, s.events = e :: rest ∧ e.isReset = true))

/-- R28: the phase changes only by a reset (to UNINIT), by INIT (to ABSORBING) and by ABSORB_LAST (from ABSORBING to FINAL). -/
def Obligations.PhaseTransitions : Prop :=
  ∀ s t : State, step s = .next t → t.phase ≠ s.phase →
    (t.phase = .uninit ∧ ∃ e rest, s.events = e :: rest ∧ e.isReset = true) ∨
    (t.phase = .absorbing ∧ s.inflight = some (encode .init)) ∨
    (s.phase = .absorbing ∧ t.phase = .final ∧ ∃ len, s.inflight = some (encode (.absorbLast len)))

/-! ## Reset (10_state.md section 8, 70_reset_and_hazards.md) -/

/-- R51: a reset (the pin, or CTRL with bit 0 = 1, at any time) gives every piece of state but S its reset value, with the clear
running; the core's next move ends the clear: every `S[i]` is 0 then, CLEARING and BUSY are 0, DONE_P is not set, and the rest
stays. The configuration and the events that still wait are the model's own fields (log 1, log 4). -/
def Obligations.ResetValues : Prop :=
  ∀ (s : State) (e : Event) (rest : List Event), s.events = e :: rest → e.isReset = true →
    ∃ t u, step s = .next t ∧
      t.x = 0 ∧ (∀ (j : Nat) (h : j < 64), t.bb[j]'h = 0) ∧ t.dg = 0 ∧ t.blkcnt = 0 ∧
      t.phase = .uninit ∧ t.err = false ∧ t.errcode = .none ∧ t.errcmd = 0 ∧ t.irqEn = false ∧ t.doneP = false ∧
      t.errP = false ∧ t.inflight = none ∧ t.rndctr = 0 ∧ t.clearing = true ∧ t.busy = true ∧
      t.cfg = s.cfg ∧ t.events = rest ∧
      t.coreMove = .next u ∧ (∀ i : Index, u.readS i = 0) ∧ u = { t with S := u.S, clearing := false, busy := false }

/-- R252, R251, R33: soft reset and power-on reset end in the same state (only the answer of the bus port tells them apart);
and the core's move while the reset clear runs writes 0 to every `S[i]`, whatever they held, ends CLEARING and BUSY, and
changes nothing else. -/
def Obligations.SoftResetAndClear : Prop :=
  (∀ (s t u : State) (w : Word), w.getLsbD 0 = true →
    s.take .resetPin = .next t → s.take (.bus (.write 0x008 4 w)) = .next u → u = { t with reply := .ack }) ∧
  (∀ s : State, s.clearing = true → ∃ S' : Vector Residue 512, (∀ (i : Nat) (h : i < 512), S'[i]'h = 0) ∧
    s.coreMove = .next { s with S := S', clearing := false, busy := false })

/-! ## The register window (10_state.md section 7, 20_memory.md)

The answer of the bus port (`bus_rdata`, `bus_ack`, `bus_err` of R97) stands in the model's field `reply` (log 11, log 12). -/

/-- R82, R222: an access of another width or at an unaligned offset gets a bus error and changes no state. -/
def Obligations.BusErrorChangesNothing : Prop :=
  ∀ (s : State) (off : BitVec 12) (size : Nat) (v : Word), size ≠ 4 ∨ off.toNat % 4 ≠ 0 →
    s.access (.read off size) = { s with reply := .busError } ∧
    s.access (.write off size v) = { s with reply := .busError }

/-- R87: a read never has a side effect, at any offset and of any width; and while BUSY = 0 two reads with no write between
return the same word. -/
def Obligations.ReadHasNoSideEffect : Prop :=
  ∀ (s : State) (off : BitVec 12) (size : Nat),
    s.SameBehindPort (s.access (.read off size)) ∧
    (s.busy = false →
      ((s.access (.read off size)).access (.read off size)).reply = (s.access (.read off size)).reply)

/-- R124: the three outcomes of a write of `w` to CMD. -/
def Obligations.CommandIssue : Prop :=
  ∀ (s : State) (w : Word),
    (s.err = true → s.access (.write 0x010 4 w) = { s with reply := .ack }) ∧
    (s.err = false → s.busy = true → s.access (.write 0x010 4 w) =
      { s with err := true, errcode := .busyViolation, errcmd := w, errP := true, reply := .ack }) ∧
    (s.err = false → s.busy = false → s.access (.write 0x010 4 w) =
      { s with inflight := some w, busy := true, reply := .ack })

/-- R225: a write to a data window while BUSY = 1 is dropped; with ERR = 0 it raises BUSY_VIOLATION with ERRCMD 0, and the
work in progress is not disturbed. -/
def Obligations.DataWriteWhileBusy : Prop :=
  ∀ (s : State) (off : BitVec 12) (w : Word), off.toNat % 4 = 0 → 0x080 ≤ off.toNat → off.toNat < 0x140 →
    s.busy = true →
    (s.err = false → s.access (.write off 4 w) =
      { s with err := true, errcode := .busyViolation, errcmd := 0, errP := true, reply := .ack }) ∧
    (s.err = true → s.access (.write off 4 w) = { s with reply := .ack })

/-- While a command is in flight no host access but a reset changes what it reads or writes: S, X, BB, DG, BLKCNT, PHASE and
its own word (R86, R261). -/
def Obligations.OperandsFrozenWhileBusy : Prop :=
  ∀ (s : State) (a : Access), s.busy = true → (Event.bus a).isReset = false →
    (s.access a).S = s.S ∧ (s.access a).x = s.x ∧ (s.access a).bb = s.bb ∧ (s.access a).dg = s.dg ∧
    (s.access a).blkcnt = s.blkcnt ∧ (s.access a).phase = s.phase ∧ (s.access a).inflight = s.inflight ∧
    (s.access a).busy = true ∧ (s.access a).rndctr = s.rndctr ∧ (s.access a).clearing = s.clearing

/-- R23: the host cannot address S: no access but a reset changes it, and no read shows it. -/
def Obligations.HostCannotAddressS : Prop :=
  (∀ (s : State) (a : Access), (Event.bus a).isReset = false → (s.access a).S = s.S) ∧
  (∀ (s : State) (S' : Vector Residue 512) (off : BitVec 12) (size : Nat),
    ({ s with S := S' }.access (.read off size)).reply = (s.access (.read off size)).reply)

/-- The X window (R47) while BUSY = 0, whatever ERR is: a write of word `k` replaces bits `[1023-32k : 992-32k]` of X and no
other bit, changes nothing else, and a read of word `j` returns that slice of X. -/
def Obligations.XWindowReadsWhatWasWritten : Prop :=
  ∀ (s : State) (k : Nat) (w : Word), k < 32 → s.busy = false →
    ∃ x' : Residue,
      s.access (.write (BitVec.ofNat 12 (0x080 + 4 * k)) 4 w) = { s with x := x', reply := .ack } ∧
      (∀ b < 1024, x'.getLsbD b =
        if 992 - 32 * k ≤ b ∧ b ≤ 1023 - 32 * k then w.getLsbD (b - (992 - 32 * k)) else s.x.getLsbD b) ∧
      ∀ j < 32,
        (s.access (.read (BitVec.ofNat 12 (0x080 + 4 * j)) 4)).reply = .data (s.x.extractLsb' (992 - 32 * j) 32)

/-- The words 0 to 31 of a 1024-bit window, word 0 first, are the value big-endian (R47, R49: `BE_128(X)` is the concatenation
of the words). -/
def Obligations.WindowWordsConcatenate : Prop :=
  ∀ V : Residue, joinWords ((List.range 32).map (windowWord V)) = V.toNat

/-- The block buffer's window (R48) while BUSY = 0, whatever ERR is: a write of word `k` stores its four bytes, the most
significant in `BB[4k]`, and no other byte; a read of a word at any time is the big-endian value of its four bytes. -/
def Obligations.BlockBufferWindow : Prop :=
  ∀ (s : State) (k : Nat) (w : Word), k < 16 →
    (s.busy = false → ∃ bb' : Vector Byte 64,
      s.access (.write (BitVec.ofNat 12 (0x100 + 4 * k)) 4 w) = { s with bb := bb', reply := .ack } ∧
      ∀ (j : Nat) (h : j < 64), bb'[j]'h =
        if j = 4 * k then w.extractLsb' 24 8 else if j = 4 * k + 1 then w.extractLsb' 16 8
        else if j = 4 * k + 2 then w.extractLsb' 8 8 else if j = 4 * k + 3 then w.extractLsb' 0 8 else s.bb[j]'h) ∧
    ∃ v : Word, s.access (.read (BitVec.ofNat 12 (0x100 + 4 * k)) 4) = { s with reply := .data v } ∧
      v.toNat = beVal ((s.bb.toList.drop (4 * k)).take 4)

/-- The digest window (R49): while BUSY = 0 byte `j` of the digest, `BE_128(DG)`, stands in bits `[31-8(j mod 4) : 24-8(j mod 4)]` of
DG_WORD[j div 4]; a write to the window is ignored at any time. -/
def Obligations.DigestWindow : Prop :=
  ∀ (s : State) (j : Nat), j < 128 →
    (s.busy = false → ∃ v : Word,
      (s.access (.read (BitVec.ofNat 12 (0x180 + 4 * (j / 4))) 4)).reply = .data v ∧
      (beBytes 128 s.dg.toNat)[j]? = some (v.extractLsb' (24 - 8 * (j % 4)) 8)) ∧
    ∀ w : Word, s.access (.write (BitVec.ofNat 12 (0x180 + 4 * (j / 4))) 4 w) = { s with reply := .ack }

/-- STATUS (R42): a read is always defined, changes nothing, and shows BUSY, ERR, PHASE and ERRCODE in their places with every
reserved bit 0; a write changes nothing. -/
def Obligations.StatusRegister : Prop :=
  ∀ s : State, ∃ v : Word, s.access (.read 0x00C 4) = { s with reply := .data v } ∧
    v.toNat = (if s.busy then 1 else 0) + 2 * (if s.err then 1 else 0)
      + 4 * (match s.phase with | .uninit => 0 | .absorbing => 1 | .final => 2)
      + 256 * (match s.errcode with
        | .none => 0 | .illegalCmd => 1 | .range => 2 | .sequence => 3 | .inputTooLarge => 4 | .busyViolation => 5
        | .internal => 6) ∧
    ∀ w : Word, s.access (.write 0x00C 4 w) = { s with reply := .ack }

/-- CTRL without bit 0 (R41): IRQ_EN takes bit 1, nothing else changes, and a read then shows bit 1 alone; accepted at any
time. -/
def Obligations.ControlRegister : Prop :=
  ∀ (s : State) (w : Word), w.getLsbD 0 = false →
    s.access (.write 0x008 4 w) = { s with irqEn := w.getLsbD 1, reply := .ack } ∧
    ((s.access (.write 0x008 4 w)).access (.read 0x008 4)).reply = .data (w &&& 2)

/-- IRQ_STATUS (R44) and the interrupt level (R30): a write clears the pending bits in which it has a 1, at any time, and
changes nothing else; a read shows DONE_P and ERR_P; `irq` is 1 exactly when it is enabled and a bit is pending. -/
def Obligations.InterruptRegister : Prop :=
  ∀ (s : State) (w : Word),
    s.access (.write 0x014 4 w) =
      { s with doneP := if w.getLsbD 0 then false else s.doneP, errP := if w.getLsbD 1 then false else s.errP,
               reply := .ack } ∧
    s.access (.read 0x014 4) = { s with reply := .data ((if s.doneP then 1 else 0) + (if s.errP then 2 else 0)) } ∧
    (s.irq = true ↔ s.irqEn = true ∧ (s.doneP = true ∨ s.errP = true))

/-- The read-only words (R39, R40, R43, R45, R46): ID, PARAM and the 0 of CMD at any time, ERRCMD at any time, and the two
halves of BLKCNT while BUSY = 0; a write to ID, PARAM or ERRCMD changes nothing. -/
def Obligations.ReadOnlyRegisters : Prop :=
  ∀ s : State,
    s.access (.read 0x000 4) = { s with reply := .data 0x484C5331 } ∧
    s.access (.read 0x004 4) = { s with reply := .data 0x40100200 } ∧
    s.access (.read 0x010 4) = { s with reply := .data 0 } ∧
    s.access (.read 0x020 4) = { s with reply := .data s.errcmd } ∧
    (∀ w : Word, s.access (.write 0x000 4 w) = { s with reply := .ack } ∧
      s.access (.write 0x004 4 w) = { s with reply := .ack } ∧ s.access (.write 0x020 4 w) = { s with reply := .ack }) ∧
    (s.busy = false → ∃ lo hi : Word,
      s.access (.read 0x018 4) = { s with reply := .data lo } ∧
      s.access (.read 0x01C 4) = { s with reply := .data hi } ∧ hi.toNat * 2 ^ 32 + lo.toNat = s.blkcnt.toNat)

/-- R50: the reserved offsets read 0, and a write to them is ignored and raises no error; the registers of access kind RO
(R38) ignore a write too. -/
def Obligations.ReservedAndReadOnlyOffsets : Prop :=
  ∀ (s : State) (off : BitVec 12) (w : Word), off.toNat % 4 = 0 →
    ((0x024 ≤ off.toNat ∧ off.toNat ≤ 0x07C) ∨ (0x140 ≤ off.toNat ∧ off.toNat ≤ 0x17C) ∨ 0x200 ≤ off.toNat →
      s.access (.read off 4) = { s with reply := .data 0 } ∧ s.access (.write off 4 w) = { s with reply := .ack }) ∧
    (off.toNat = 0x000 ∨ off.toNat = 0x004 ∨ off.toNat = 0x00C ∨ off.toNat = 0x018 ∨ off.toNat = 0x01C ∨ off.toNat = 0x020 →
      s.access (.write off 4 w) = { s with reply := .ack })

/-! ## Modular arithmetic (40_modular_arithmetic.md) -/

/-- R142: `ModPow` obeys its defining recursion, its results are residues, and it fixes 0 and 1 for every `E >= 2`. -/
def Obligations.ModPowRecursion : Prop :=
  ∀ p a : Nat, a < p →
    modPow p 1 a = a ∧ (∀ k, 1 ≤ k → modPow p (k + 1) a = modMul p (modPow p k a) a) ∧
    (∀ e, modPow p e a < p) ∧
    (∀ e, 2 ≤ e → modPow p e 0 = 0 ∧ (2 ≤ p → modPow p e 1 = 1))

/-- R148: the laws of modular addition and multiplication on residues. -/
def Obligations.ModularLaws : Prop :=
  ∀ p a b c : Nat, a < p → b < p → c < p →
    modAdd p a b < p ∧ modMul p a b < p ∧
    modAdd p a b = modAdd p b a ∧ modMul p a b = modMul p b a ∧
    modAdd p (modAdd p a b) c = modAdd p a (modAdd p b c) ∧
    modMul p (modMul p a b) c = modMul p a (modMul p b c) ∧
    modAdd p a 0 = a ∧ modMul p a 1 = a ∧ modMul p a 0 = 0 ∧
    modMul p a (modAdd p b c) = modAdd p (modMul p a b) (modMul p a c) ∧
    (0 < a → modAdd p a (p - a) = 0) ∧ (2 ≤ p → modMul p (p - 1) (p - 1) = 1)

/-- MODADD (R140, R143, R145): with both sources below P, `S[D]` becomes their sum mod P (that is `a + b`, or `a + b - P`), read
before the write, D, A and B equal or not; the command completes and nothing else changes. -/
def Obligations.ModaddResult : Prop :=
  ∀ (d a b : Index) (s : State), (s.readS a).toNat < s.cfg.p → (s.readS b).toNat < s.cfg.p →
    ∃ v : Residue,
      v.toNat = ((s.readS a).toNat + (s.readS b).toNat) % s.cfg.p ∧
      v.toNat = (if (s.readS a).toNat + (s.readS b).toNat < s.cfg.p then (s.readS a).toNat + (s.readS b).toNat
        else (s.readS a).toNat + (s.readS b).toNat - s.cfg.p) ∧
      v.toNat < s.cfg.p ∧
      exec (.modadd d a b) s =
        .next { s with S := s.S.set d.toNat v d.isLt, inflight := none, busy := false, doneP := true }

/-- MODMUL (R141, R143, R146): `S[D]` becomes the exact product reduced mod P. -/
def Obligations.ModmulResult : Prop :=
  ∀ (d a b : Index) (s : State), (s.readS a).toNat < s.cfg.p → (s.readS b).toNat < s.cfg.p →
    ∃ v : Residue,
      v.toNat = ((s.readS a).toNat * (s.readS b).toNat) % s.cfg.p ∧ v.toNat < s.cfg.p ∧
      exec (.modmul d a b) s =
        .next { s with S := s.S.set d.toNat v d.isLt, inflight := none, busy := false, doneP := true }

/-- MODPOW (R142, R143, R147): `S[D]` becomes `S[A]^E mod P` with the configured E. -/
def Obligations.ModpowResult : Prop :=
  ∀ (d a : Index) (s : State), (s.readS a).toNat < s.cfg.p →
    ∃ v : Residue,
      v.toNat = (s.readS a).toNat ^ s.cfg.e % s.cfg.p ∧ v.toNat < s.cfg.p ∧
      exec (.modpow d a) s =
        .next { s with S := s.S.set d.toNat v d.isLt, inflight := none, busy := false, doneP := true }

/-! ## State transfer (41_state_transfer.md) -/

/-- WRS (R160): `X < P` goes to `S[D]` and the command completes; `X >= P` with ERR = 0 raises RANGE and leaves S as it was, with
ERRCMD the command's word (log 14). `X >= P` with ERR = 1 is in `ErrorWhileHaltedOnlyCompletes`. -/
def Obligations.WrsResult : Prop :=
  ∀ (d : Index) (s : State),
    (s.x.toNat < s.cfg.p → exec (.wrs d) s =
      .next { s with S := s.S.set d.toNat s.x d.isLt, inflight := none, busy := false, doneP := true }) ∧
    (s.cfg.p ≤ s.x.toNat → s.err = false → exec (.wrs d) s =
      .next { s with err := true, errcode := .range, errcmd := encode (.wrs d), errP := true,
                     inflight := none, busy := false })

/-- RDS (R161): X becomes `S[A]`; the command completes in every state and nothing else changes. -/
def Obligations.RdsResult : Prop :=
  ∀ (a : Index) (s : State), ∃ v : Residue, v = s.S[a.toNat]'a.isLt ∧
    exec (.rds a) s = .next { s with x := v, inflight := none, busy := false, doneP := true }

/-! ## Initialisation, padding, absorption (42_init_absorb.md) -/

/-- INIT (R170): in every phase S becomes IV, BLKCNT and DG become 0, PHASE becomes ABSORBING; X, BB and the rest stay. -/
def Obligations.InitResult : Prop :=
  ∀ s : State, exec .init s =
    .next { s with S := s.cfg.iv, blkcnt := 0, dg := 0, phase := .absorbing,
                   inflight := none, busy := false, doneP := true }

/-- R174 with R173: `AbsorbBlock` permutes the state in which the eight chunks, the big-endian values of 8 bytes each, are
added mod P into `S[0..7]` and the other elements are kept. -/
def Obligations.AbsorbBlockMeaning : Prop :=
  ∀ (c : Config) (S : Vector Residue 512) (blk : Vector Byte 64), (∀ (i : Nat) (h : i < 512), (S[i]'h).toNat < c.p) →
    ∃ S' : Vector Residue 512, absorbBlock c S blk = permute c S' ∧
      ∀ (i : Nat) (h : i < 512),
        (i < 8 → beVal ((blk.toList.drop (8 * i)).take 8) < c.p ∧
          (S'[i]'h).toNat = ((S[i]'h).toNat + beVal ((blk.toList.drop (8 * i)).take 8)) % c.p) ∧
        (8 ≤ i → S'[i]'h = S[i]'h)

/-- ABSORB (R175): in ABSORBING, with room in BLKCNT, S becomes `AbsorbBlock(S, BB)` and BLKCNT counts one more; PHASE, X, BB,
DG and the rest stay. -/
def Obligations.AbsorbResult : Prop :=
  ∀ s : State, s.ResiduesBelow → s.phase = .absorbing → s.blkcnt.toNat ≠ 2 ^ 64 - 1 →
    ∃ n : BitVec 64, n.toNat = s.blkcnt.toNat + 1 ∧
      exec .absorb s = .next { s with S := absorbBlock s.cfg s.S s.bb, blkcnt := n, rndctr := 0,
                                      inflight := none, busy := false, doneP := true }

/-- ABSORB_LAST (R176): the block is `BB[0..LEN) ++ [0x80] ++ [0x00] × (63 - LEN)`, and PHASE becomes FINAL. -/
def Obligations.AbsorbLastResult : Prop :=
  ∀ (len : BitVec 6) (s : State), s.ResiduesBelow → s.phase = .absorbing → s.blkcnt.toNat ≠ 2 ^ 64 - 1 →
    ∃ (n : BitVec 64) (blk : Vector Byte 64), n.toNat = s.blkcnt.toNat + 1 ∧
      blk.toList = s.bb.toList.take len.toNat ++ [0x80] ++ List.replicate (63 - len.toNat) 0x00 ∧
      exec (.absorbLast len) s = .next { s with S := absorbBlock s.cfg s.S blk, blkcnt := n, phase := .final, rndctr := 0,
                                                inflight := none, busy := false, doneP := true }

/-- R172, R177: `Pad` appends 0x80 and the fewest zero bytes to a positive multiple of 64, and no two messages have the same
padding. -/
def Obligations.PadIsInjective : Prop :=
  (∀ m : List Byte, ∃ z, z < 64 ∧ pad m = m ++ [0x80] ++ List.replicate z 0x00 ∧ (pad m).length % 64 = 0 ∧
    (pad m).length / 64 = m.length / 64 + 1) ∧
  (∀ m m' : List Byte, pad m = pad m' → m = m')

/-- R179: the full blocks of a message, and then the block ABSORB_LAST makes of the remaining bytes (whatever stands behind
them in BB), are exactly the blocks of `Pad(M)` in order. -/
def Obligations.HostSplitIsPadding : Prop :=
  ∀ (m : List Byte) (bb : Vector Byte 64),
    (∀ (j : Nat) (h : j < 64), j < m.length % 64 → m[64 * (m.length / 64) + j]? = some (bb[j]'h)) →
    padBlocks m = (List.range (m.length / 64)).map (blockAt m) ++ [lastBlock bb (BitVec.ofNat 6 (m.length % 64))]

/-! ## Permutation (43_permutation.md) -/

/-- R192: one round: the sum of the ten elements at the offsets of OFF, reduced; the round constant added mod P; the E-th
power mod P. Every result is below P. -/
def Obligations.RoundMeaning : Prop :=
  ∀ (c : Config) (S : Vector Residue 512) (r : BitVec 4) (i : Nat) (h : i < 512),
    ((round c S r)[i]'h).toNat =
      ((([0, 1, 2, 4, 8, 16, 32, 64, 128, 256].map fun k => (S[(i + k) % 512]'(Nat.mod_lt _ (by decide))).toNat).sum % c.p
        + ((c.rc[r.toNat]'r.isLt)[i]'h).toNat) % c.p) ^ c.e % c.p ∧
    ((round c S r)[i]'h).toNat < c.p

/-- R195: a permutation is exactly the rounds 0 to 15, each feeding the next. -/
def Obligations.PermuteIsSixteenRounds : Prop :=
  ∀ (c : Config) (S : Vector Residue 512),
    permute c S = round c (round c (round c (round c (round c (round c (round c (round c (round c (round c (round c (round c
      (round c (round c (round c (round c S 0) 1) 2) 3) 4) 5) 6) 7) 8) 9) 10) 11) 12) 13) 14) 15

/-- PERMUTE (R196): in every phase, S becomes `Permute(S)` and RNDCTR is 0 again; nothing else changes. -/
def Obligations.PermuteResult : Prop :=
  ∀ s : State, s.ResiduesBelow →
    exec .permute s = .next { s with S := permute s.cfg s.S, rndctr := 0, inflight := none, busy := false, doneP := true }

/-! ## Squeeze, control, digest (44_squeeze_control.md) -/

/-- SQUEEZE (R210): in FINAL, DG becomes `S[0]`; S, PHASE and the rest stay. -/
def Obligations.SqueezeResult : Prop :=
  ∀ s : State, s.phase = .final → ∃ v : Residue, v = s.S[0] ∧
    exec .squeeze s = .next { s with dg := v, inflight := none, busy := false, doneP := true }

/-- NOP (R212): nothing but its completion. -/
def Obligations.NopResult : Prop :=
  ∀ s : State, exec .nop s = .next { s with inflight := none, busy := false, doneP := true }

/-- R18: `BE_n` writes the most significant byte first, `BEval` is the weighted sum, and `BEval(BE_n(v)) = v`. -/
def Obligations.BigEndianConversions : Prop :=
  (∀ n v : Nat, (beBytes n v).length = n ∧
    ∀ j (h : j < (beBytes n v).length), ((beBytes n v)[j]'h).toNat = (v >>> (8 * (n - 1 - j))) % 256) ∧
  (∀ bs : List Byte, beVal bs = ((List.range bs.length).map fun j => (bs.getD j 0).toNat * 256 ^ (bs.length - 1 - j)).sum) ∧
  (∀ n v : Nat, v < 256 ^ n → beVal (beBytes n v) = v)

/-- R217: INIT forgets. Whatever two states held before, after INIT their digest state (S, DG, BLKCNT, PHASE) is the same if
their configuration is; and with the same block buffer the absorb commands and SQUEEZE keep it the same. -/
def Obligations.InitForgetsThePast : Prop :=
  (∀ s t s' t' : State, s.cfg = t.cfg → exec .init s = .next s' → exec .init t = .next t' →
    s'.S = t'.S ∧ s'.dg = t'.dg ∧ s'.blkcnt = t'.blkcnt ∧ s'.phase = t'.phase) ∧
  (∀ (i : Instr) (s t s' t' : State), (i = .absorb ∨ (∃ len, i = .absorbLast len) ∨ i = .squeeze) →
    s.ResiduesBelow → s.cfg = t.cfg → s.bb = t.bb → s.S = t.S → s.dg = t.dg → s.blkcnt = t.blkcnt → s.phase = t.phase →
    exec i s = .next s' → exec i t = .next t' →
    s'.S = t'.S ∧ s'.dg = t'.dg ∧ s'.blkcnt = t'.blkcnt ∧ s'.phase = t'.phase)

/-- R215: the host procedure computes the digest. For every message the hardware can count, from every state with BUSY = 0
and ERR = 0, and whenever the core completes its work during each POLL (`schedules`, log 20), the procedure returns the bytes
`DigestRef(M)`, and ends with `BE_128(DG) = DigestRef(M)`, PHASE = FINAL, BLKCNT = n_f + 1 and ERR = 0. -/
def Obligations.DigestProcedureComputesDigest : Prop :=
  ∀ (s : State) (schedules : Nat → List Bool) (m : List Byte), s.clearing = false → s.inflight = none → s.busy = false →
    s.err = false → m.length / 64 + 1 ≤ 2 ^ 64 - 1 →
    ∃ t, s.hostDigest schedules m = .next (digestRef s.cfg m, t) ∧
      beBytes 128 t.dg.toNat = digestRef s.cfg m ∧ t.phase = .final ∧ t.blkcnt.toNat = m.length / 64 + 1 ∧ t.err = false

/-! ## Errors (60_exceptions.md) -/

/-- SEQUENCE (R221): an absorb command outside ABSORBING and SQUEEZE outside FINAL write none of their state and raise it,
before any other check of theirs (R226). ERRCMD is the command's word (log 14). -/
def Obligations.SequenceError : Prop :=
  ∀ (s : State) (i : Instr), s.err = false →
    ((s.phase ≠ .absorbing ∧ (i = .absorb ∨ ∃ len, i = .absorbLast len)) ∨ (s.phase ≠ .final ∧ i = .squeeze)) →
    exec i s = .next { s with err := true, errcode := .sequence, errcmd := encode i, errP := true,
                              inflight := none, busy := false }

/-- INPUT_TOO_LARGE (R178, R221): in ABSORBING, the absorb that would be block `2^64` writes none of its state and raises it.
ERRCMD is the command's word (log 14). -/
def Obligations.InputTooLargeError : Prop :=
  ∀ (s : State) (i : Instr), s.err = false → s.phase = .absorbing → s.blkcnt.toNat = 2 ^ 64 - 1 →
    (i = .absorb ∨ ∃ len, i = .absorbLast len) →
    exec i s = .next { s with err := true, errcode := .inputTooLarge, errcmd := encode i, errP := true,
                              inflight := none, busy := false }

/-- INTERNAL (R228): an operand `>= P` at a unit raises it; X, DG, BLKCNT, PHASE and all else but S are as for any error, and
the statement says nothing of S, which is free (log 8). Which operands a permutation checks is log 15, ERRCMD log 14. -/
def Obligations.InternalError : Prop :=
  ∀ (s : State) (i : Instr), s.err = false →
    ((∃ d a b, (i = .modadd d a b ∨ i = .modmul d a b) ∧ (s.cfg.p ≤ (s.readS a).toNat ∨ s.cfg.p ≤ (s.readS b).toNat)) ∨
     (∃ d a, i = .modpow d a ∧ s.cfg.p ≤ (s.readS a).toNat) ∨
     (i = .permute ∧ ∃ k : Index, s.cfg.p ≤ (s.readS k).toNat) ∨
     ((i = .absorb ∨ ∃ len, i = .absorbLast len) ∧ s.phase = .absorbing ∧ s.blkcnt.toNat ≠ 2 ^ 64 - 1 ∧
       ∃ k : Index, s.cfg.p ≤ (s.readS k).toNat)) →
    ∃ (S' : Vector Residue 512) (n : Nat), exec i s =
      .next { s with S := S', draws := n, err := true, errcode := .internal, errcmd := encode i, errP := true,
                     inflight := none, busy := false }

/-- R228: in a machine no check of a unit fails, so no step from a state of residues raises INTERNAL. -/
def Obligations.InternalIsNeverRaised : Prop :=
  ∀ s t : State, s.ResiduesBelow → s.errcode ≠ .internal → step s = .next t → t.errcode ≠ .internal

/-- R29, R231: errors do not nest. A command executed while ERR = 1 (it was in flight when BUSY_VIOLATION was raised) that would
itself raise RANGE, SEQUENCE or INPUT_TOO_LARGE, and an illegal word, change nothing but complete; one that would raise
INTERNAL also leaves S free (log 8, log 15), of which the statement says nothing. -/
def Obligations.ErrorWhileHaltedOnlyCompletes : Prop :=
  ∀ s : State, s.err = true →
    (∀ d, s.cfg.p ≤ s.x.toNat → exec (.wrs d) s = .next { s with inflight := none, busy := false }) ∧
    (s.phase ≠ .final → exec .squeeze s = .next { s with inflight := none, busy := false }) ∧
    (∀ i, (i = .absorb ∨ ∃ len, i = .absorbLast len) → s.phase ≠ .absorbing ∨ s.blkcnt.toNat = 2 ^ 64 - 1 →
      exec i s = .next { s with inflight := none, busy := false }) ∧
    (∀ i,
      ((∃ d a b, (i = .modadd d a b ∨ i = .modmul d a b) ∧ (s.cfg.p ≤ (s.readS a).toNat ∨ s.cfg.p ≤ (s.readS b).toNat)) ∨
       (∃ d a, i = .modpow d a ∧ s.cfg.p ≤ (s.readS a).toNat) ∨
       (i = .permute ∧ ∃ k : Index, s.cfg.p ≤ (s.readS k).toNat) ∨
       ((i = .absorb ∨ ∃ len, i = .absorbLast len) ∧ s.phase = .absorbing ∧ s.blkcnt.toNat ≠ 2 ^ 64 - 1 ∧
         ∃ k : Index, s.cfg.p ≤ (s.readS k).toNat)) →
      ∃ (S' : Vector Residue 512) (n : Nat),
        exec i s = .next { s with S := S', draws := n, inflight := none, busy := false }) ∧
    (∀ w e, s.clearing = false → s.inflight = some w → decode w = .error e →
      s.coreMove = .next { s with inflight := none, busy := false })
end

