-- ==== Sys2Proof/Laws/State.lean ====
section
/-! SUPPORT. What each update of the state does to each field. -/

namespace Sys2Proof.Machine

/-! `State.writeS` -/

@[simp] theorem State.writeS_S (s : State) (i : Index) (v : Residue) : (s.writeS i v).S = s.S.set i.toNat v i.isLt := rfl
@[simp] theorem State.writeS_x (s : State) (i : Index) (v : Residue) : (s.writeS i v).x = s.x := rfl
@[simp] theorem State.writeS_bb (s : State) (i : Index) (v : Residue) : (s.writeS i v).bb = s.bb := rfl
@[simp] theorem State.writeS_dg (s : State) (i : Index) (v : Residue) : (s.writeS i v).dg = s.dg := rfl
@[simp] theorem State.writeS_blkcnt (s : State) (i : Index) (v : Residue) : (s.writeS i v).blkcnt = s.blkcnt := rfl
@[simp] theorem State.writeS_phase (s : State) (i : Index) (v : Residue) : (s.writeS i v).phase = s.phase := rfl
@[simp] theorem State.writeS_err (s : State) (i : Index) (v : Residue) : (s.writeS i v).err = s.err := rfl
@[simp] theorem State.writeS_errcode (s : State) (i : Index) (v : Residue) : (s.writeS i v).errcode = s.errcode := rfl
@[simp] theorem State.writeS_errcmd (s : State) (i : Index) (v : Residue) : (s.writeS i v).errcmd = s.errcmd := rfl
@[simp] theorem State.writeS_irqEn (s : State) (i : Index) (v : Residue) : (s.writeS i v).irqEn = s.irqEn := rfl
@[simp] theorem State.writeS_doneP (s : State) (i : Index) (v : Residue) : (s.writeS i v).doneP = s.doneP := rfl
@[simp] theorem State.writeS_errP (s : State) (i : Index) (v : Residue) : (s.writeS i v).errP = s.errP := rfl
@[simp] theorem State.writeS_busy (s : State) (i : Index) (v : Residue) : (s.writeS i v).busy = s.busy := rfl
@[simp] theorem State.writeS_inflight (s : State) (i : Index) (v : Residue) : (s.writeS i v).inflight = s.inflight := rfl
@[simp] theorem State.writeS_rndctr (s : State) (i : Index) (v : Residue) : (s.writeS i v).rndctr = s.rndctr := rfl
@[simp] theorem State.writeS_clearing (s : State) (i : Index) (v : Residue) : (s.writeS i v).clearing = s.clearing := rfl
@[simp] theorem State.writeS_cfg (s : State) (i : Index) (v : Residue) : (s.writeS i v).cfg = s.cfg := rfl
@[simp] theorem State.writeS_events (s : State) (i : Index) (v : Residue) : (s.writeS i v).events = s.events := rfl
@[simp] theorem State.writeS_reply (s : State) (i : Index) (v : Residue) : (s.writeS i v).reply = s.reply := rfl
@[simp] theorem State.writeS_draws (s : State) (i : Index) (v : Residue) : (s.writeS i v).draws = s.draws := rfl

/-! `State.complete` -/

@[simp] theorem State.complete_S (s : State) : s.complete.S = s.S := rfl
@[simp] theorem State.complete_x (s : State) : s.complete.x = s.x := rfl
@[simp] theorem State.complete_bb (s : State) : s.complete.bb = s.bb := rfl
@[simp] theorem State.complete_dg (s : State) : s.complete.dg = s.dg := rfl
@[simp] theorem State.complete_blkcnt (s : State) : s.complete.blkcnt = s.blkcnt := rfl
@[simp] theorem State.complete_phase (s : State) : s.complete.phase = s.phase := rfl
@[simp] theorem State.complete_err (s : State) : s.complete.err = s.err := rfl
@[simp] theorem State.complete_errcode (s : State) : s.complete.errcode = s.errcode := rfl
@[simp] theorem State.complete_errcmd (s : State) : s.complete.errcmd = s.errcmd := rfl
@[simp] theorem State.complete_irqEn (s : State) : s.complete.irqEn = s.irqEn := rfl
@[simp] theorem State.complete_doneP (s : State) : s.complete.doneP = s.doneP := rfl
@[simp] theorem State.complete_errP (s : State) : s.complete.errP = s.errP := rfl
@[simp] theorem State.complete_busy (s : State) : s.complete.busy = false := rfl
@[simp] theorem State.complete_inflight (s : State) : s.complete.inflight = Option.none := rfl
@[simp] theorem State.complete_rndctr (s : State) : s.complete.rndctr = s.rndctr := rfl
@[simp] theorem State.complete_clearing (s : State) : s.complete.clearing = s.clearing := rfl
@[simp] theorem State.complete_cfg (s : State) : s.complete.cfg = s.cfg := rfl
@[simp] theorem State.complete_events (s : State) : s.complete.events = s.events := rfl
@[simp] theorem State.complete_reply (s : State) : s.complete.reply = s.reply := rfl
@[simp] theorem State.complete_draws (s : State) : s.complete.draws = s.draws := rfl

/-! `State.finish` -/

@[simp] theorem State.finish_S (s : State) : s.finish.S = s.S := rfl
@[simp] theorem State.finish_x (s : State) : s.finish.x = s.x := rfl
@[simp] theorem State.finish_bb (s : State) : s.finish.bb = s.bb := rfl
@[simp] theorem State.finish_dg (s : State) : s.finish.dg = s.dg := rfl
@[simp] theorem State.finish_blkcnt (s : State) : s.finish.blkcnt = s.blkcnt := rfl
@[simp] theorem State.finish_phase (s : State) : s.finish.phase = s.phase := rfl
@[simp] theorem State.finish_err (s : State) : s.finish.err = s.err := rfl
@[simp] theorem State.finish_errcode (s : State) : s.finish.errcode = s.errcode := rfl
@[simp] theorem State.finish_errcmd (s : State) : s.finish.errcmd = s.errcmd := rfl
@[simp] theorem State.finish_irqEn (s : State) : s.finish.irqEn = s.irqEn := rfl
@[simp] theorem State.finish_doneP (s : State) : s.finish.doneP = true := rfl
@[simp] theorem State.finish_errP (s : State) : s.finish.errP = s.errP := rfl
@[simp] theorem State.finish_busy (s : State) : s.finish.busy = false := rfl
@[simp] theorem State.finish_inflight (s : State) : s.finish.inflight = Option.none := rfl
@[simp] theorem State.finish_rndctr (s : State) : s.finish.rndctr = s.rndctr := rfl
@[simp] theorem State.finish_clearing (s : State) : s.finish.clearing = s.clearing := rfl
@[simp] theorem State.finish_cfg (s : State) : s.finish.cfg = s.cfg := rfl
@[simp] theorem State.finish_events (s : State) : s.finish.events = s.events := rfl
@[simp] theorem State.finish_reply (s : State) : s.finish.reply = s.reply := rfl
@[simp] theorem State.finish_draws (s : State) : s.finish.draws = s.draws := rfl

/-! `State.accept` -/

@[simp] theorem State.accept_S (s : State) (w : Word) : (s.accept w).S = s.S := rfl
@[simp] theorem State.accept_x (s : State) (w : Word) : (s.accept w).x = s.x := rfl
@[simp] theorem State.accept_bb (s : State) (w : Word) : (s.accept w).bb = s.bb := rfl
@[simp] theorem State.accept_dg (s : State) (w : Word) : (s.accept w).dg = s.dg := rfl
@[simp] theorem State.accept_blkcnt (s : State) (w : Word) : (s.accept w).blkcnt = s.blkcnt := rfl
@[simp] theorem State.accept_phase (s : State) (w : Word) : (s.accept w).phase = s.phase := rfl
@[simp] theorem State.accept_err (s : State) (w : Word) : (s.accept w).err = s.err := rfl
@[simp] theorem State.accept_errcode (s : State) (w : Word) : (s.accept w).errcode = s.errcode := rfl
@[simp] theorem State.accept_errcmd (s : State) (w : Word) : (s.accept w).errcmd = s.errcmd := rfl
@[simp] theorem State.accept_irqEn (s : State) (w : Word) : (s.accept w).irqEn = s.irqEn := rfl
@[simp] theorem State.accept_doneP (s : State) (w : Word) : (s.accept w).doneP = s.doneP := rfl
@[simp] theorem State.accept_errP (s : State) (w : Word) : (s.accept w).errP = s.errP := rfl
@[simp] theorem State.accept_busy (s : State) (w : Word) : (s.accept w).busy = true := rfl
@[simp] theorem State.accept_inflight (s : State) (w : Word) : (s.accept w).inflight = some w := rfl
@[simp] theorem State.accept_rndctr (s : State) (w : Word) : (s.accept w).rndctr = s.rndctr := rfl
@[simp] theorem State.accept_clearing (s : State) (w : Word) : (s.accept w).clearing = s.clearing := rfl
@[simp] theorem State.accept_cfg (s : State) (w : Word) : (s.accept w).cfg = s.cfg := rfl
@[simp] theorem State.accept_events (s : State) (w : Word) : (s.accept w).events = s.events := rfl
@[simp] theorem State.accept_reply (s : State) (w : Word) : (s.accept w).reply = s.reply := rfl
@[simp] theorem State.accept_draws (s : State) (w : Word) : (s.accept w).draws = s.draws := rfl

/-! `State.endClear` -/

@[simp] theorem State.endClear_S (s : State) : s.endClear.S = Vector.replicate 512 0 := rfl
@[simp] theorem State.endClear_x (s : State) : s.endClear.x = s.x := rfl
@[simp] theorem State.endClear_bb (s : State) : s.endClear.bb = s.bb := rfl
@[simp] theorem State.endClear_dg (s : State) : s.endClear.dg = s.dg := rfl
@[simp] theorem State.endClear_blkcnt (s : State) : s.endClear.blkcnt = s.blkcnt := rfl
@[simp] theorem State.endClear_phase (s : State) : s.endClear.phase = s.phase := rfl
@[simp] theorem State.endClear_err (s : State) : s.endClear.err = s.err := rfl
@[simp] theorem State.endClear_errcode (s : State) : s.endClear.errcode = s.errcode := rfl
@[simp] theorem State.endClear_errcmd (s : State) : s.endClear.errcmd = s.errcmd := rfl
@[simp] theorem State.endClear_irqEn (s : State) : s.endClear.irqEn = s.irqEn := rfl
@[simp] theorem State.endClear_doneP (s : State) : s.endClear.doneP = s.doneP := rfl
@[simp] theorem State.endClear_errP (s : State) : s.endClear.errP = s.errP := rfl
@[simp] theorem State.endClear_busy (s : State) : s.endClear.busy = false := rfl
@[simp] theorem State.endClear_inflight (s : State) : s.endClear.inflight = s.inflight := rfl
@[simp] theorem State.endClear_rndctr (s : State) : s.endClear.rndctr = s.rndctr := rfl
@[simp] theorem State.endClear_clearing (s : State) : s.endClear.clearing = false := rfl
@[simp] theorem State.endClear_cfg (s : State) : s.endClear.cfg = s.cfg := rfl
@[simp] theorem State.endClear_events (s : State) : s.endClear.events = s.events := rfl
@[simp] theorem State.endClear_reply (s : State) : s.endClear.reply = s.reply := rfl
@[simp] theorem State.endClear_draws (s : State) : s.endClear.draws = s.draws := rfl

/-! `State.placeCommand` -/

@[simp] theorem State.placeCommand_S (s : State) (w : Word) : (s.placeCommand w).S = s.S := rfl
@[simp] theorem State.placeCommand_x (s : State) (w : Word) : (s.placeCommand w).x = s.x := rfl
@[simp] theorem State.placeCommand_bb (s : State) (w : Word) : (s.placeCommand w).bb = s.bb := rfl
@[simp] theorem State.placeCommand_dg (s : State) (w : Word) : (s.placeCommand w).dg = s.dg := rfl
@[simp] theorem State.placeCommand_blkcnt (s : State) (w : Word) : (s.placeCommand w).blkcnt = s.blkcnt := rfl
@[simp] theorem State.placeCommand_phase (s : State) (w : Word) : (s.placeCommand w).phase = s.phase := rfl
@[simp] theorem State.placeCommand_err (s : State) (w : Word) : (s.placeCommand w).err = s.err := rfl
@[simp] theorem State.placeCommand_errcode (s : State) (w : Word) : (s.placeCommand w).errcode = s.errcode := rfl
@[simp] theorem State.placeCommand_errcmd (s : State) (w : Word) : (s.placeCommand w).errcmd = s.errcmd := rfl
@[simp] theorem State.placeCommand_irqEn (s : State) (w : Word) : (s.placeCommand w).irqEn = s.irqEn := rfl
@[simp] theorem State.placeCommand_doneP (s : State) (w : Word) : (s.placeCommand w).doneP = s.doneP := rfl
@[simp] theorem State.placeCommand_errP (s : State) (w : Word) : (s.placeCommand w).errP = s.errP := rfl
@[simp] theorem State.placeCommand_busy (s : State) (w : Word) : (s.placeCommand w).busy = true := rfl
@[simp] theorem State.placeCommand_inflight (s : State) (w : Word) : (s.placeCommand w).inflight = some w := rfl
@[simp] theorem State.placeCommand_rndctr (s : State) (w : Word) : (s.placeCommand w).rndctr = s.rndctr := rfl
@[simp] theorem State.placeCommand_clearing (s : State) (w : Word) : (s.placeCommand w).clearing = false := rfl
@[simp] theorem State.placeCommand_cfg (s : State) (w : Word) : (s.placeCommand w).cfg = s.cfg := rfl
@[simp] theorem State.placeCommand_events (s : State) (w : Word) : (s.placeCommand w).events = .core :: s.events := rfl
@[simp] theorem State.placeCommand_reply (s : State) (w : Word) : (s.placeCommand w).reply = s.reply := rfl
@[simp] theorem State.placeCommand_draws (s : State) (w : Word) : (s.placeCommand w).draws = s.draws := rfl

/-! `State.clearPending` -/

@[simp] theorem State.clearPending_S (s : State) (w : Word) : (s.clearPending w).S = s.S := rfl
@[simp] theorem State.clearPending_x (s : State) (w : Word) : (s.clearPending w).x = s.x := rfl
@[simp] theorem State.clearPending_bb (s : State) (w : Word) : (s.clearPending w).bb = s.bb := rfl
@[simp] theorem State.clearPending_dg (s : State) (w : Word) : (s.clearPending w).dg = s.dg := rfl
@[simp] theorem State.clearPending_blkcnt (s : State) (w : Word) : (s.clearPending w).blkcnt = s.blkcnt := rfl
@[simp] theorem State.clearPending_phase (s : State) (w : Word) : (s.clearPending w).phase = s.phase := rfl
@[simp] theorem State.clearPending_err (s : State) (w : Word) : (s.clearPending w).err = s.err := rfl
@[simp] theorem State.clearPending_errcode (s : State) (w : Word) : (s.clearPending w).errcode = s.errcode := rfl
@[simp] theorem State.clearPending_errcmd (s : State) (w : Word) : (s.clearPending w).errcmd = s.errcmd := rfl
@[simp] theorem State.clearPending_irqEn (s : State) (w : Word) : (s.clearPending w).irqEn = s.irqEn := rfl
@[simp] theorem State.clearPending_doneP (s : State) (w : Word) : (s.clearPending w).doneP = (s.doneP && !w.getLsbD 0) := rfl
@[simp] theorem State.clearPending_errP (s : State) (w : Word) : (s.clearPending w).errP = (s.errP && !w.getLsbD 1) := rfl
@[simp] theorem State.clearPending_busy (s : State) (w : Word) : (s.clearPending w).busy = s.busy := rfl
@[simp] theorem State.clearPending_inflight (s : State) (w : Word) : (s.clearPending w).inflight = s.inflight := rfl
@[simp] theorem State.clearPending_rndctr (s : State) (w : Word) : (s.clearPending w).rndctr = s.rndctr := rfl
@[simp] theorem State.clearPending_clearing (s : State) (w : Word) : (s.clearPending w).clearing = s.clearing := rfl
@[simp] theorem State.clearPending_cfg (s : State) (w : Word) : (s.clearPending w).cfg = s.cfg := rfl
@[simp] theorem State.clearPending_events (s : State) (w : Word) : (s.clearPending w).events = s.events := rfl
@[simp] theorem State.clearPending_reply (s : State) (w : Word) : (s.clearPending w).reply = s.reply := rfl
@[simp] theorem State.clearPending_draws (s : State) (w : Word) : (s.clearPending w).draws = s.draws := rfl

/-! `State.runRound` -/

@[simp] theorem State.runRound_S (s : State) (r : BitVec 4) : (s.runRound r).S = round s.cfg s.S r := rfl
@[simp] theorem State.runRound_x (s : State) (r : BitVec 4) : (s.runRound r).x = s.x := rfl
@[simp] theorem State.runRound_bb (s : State) (r : BitVec 4) : (s.runRound r).bb = s.bb := rfl
@[simp] theorem State.runRound_dg (s : State) (r : BitVec 4) : (s.runRound r).dg = s.dg := rfl
@[simp] theorem State.runRound_blkcnt (s : State) (r : BitVec 4) : (s.runRound r).blkcnt = s.blkcnt := rfl
@[simp] theorem State.runRound_phase (s : State) (r : BitVec 4) : (s.runRound r).phase = s.phase := rfl
@[simp] theorem State.runRound_err (s : State) (r : BitVec 4) : (s.runRound r).err = s.err := rfl
@[simp] theorem State.runRound_errcode (s : State) (r : BitVec 4) : (s.runRound r).errcode = s.errcode := rfl
@[simp] theorem State.runRound_errcmd (s : State) (r : BitVec 4) : (s.runRound r).errcmd = s.errcmd := rfl
@[simp] theorem State.runRound_irqEn (s : State) (r : BitVec 4) : (s.runRound r).irqEn = s.irqEn := rfl
@[simp] theorem State.runRound_doneP (s : State) (r : BitVec 4) : (s.runRound r).doneP = s.doneP := rfl
@[simp] theorem State.runRound_errP (s : State) (r : BitVec 4) : (s.runRound r).errP = s.errP := rfl
@[simp] theorem State.runRound_busy (s : State) (r : BitVec 4) : (s.runRound r).busy = s.busy := rfl
@[simp] theorem State.runRound_inflight (s : State) (r : BitVec 4) : (s.runRound r).inflight = s.inflight := rfl
@[simp] theorem State.runRound_rndctr (s : State) (r : BitVec 4) : (s.runRound r).rndctr = r := rfl
@[simp] theorem State.runRound_clearing (s : State) (r : BitVec 4) : (s.runRound r).clearing = s.clearing := rfl
@[simp] theorem State.runRound_cfg (s : State) (r : BitVec 4) : (s.runRound r).cfg = s.cfg := rfl
@[simp] theorem State.runRound_events (s : State) (r : BitVec 4) : (s.runRound r).events = s.events := rfl
@[simp] theorem State.runRound_reply (s : State) (r : BitVec 4) : (s.runRound r).reply = s.reply := rfl
@[simp] theorem State.runRound_draws (s : State) (r : BitVec 4) : (s.runRound r).draws = s.draws := rfl

/-! `State.toReset` -/

@[simp] theorem State.toReset_S (s : State) : s.toReset.S = Vector.replicate 512 0 := rfl
@[simp] theorem State.toReset_x (s : State) : s.toReset.x = 0 := rfl
@[simp] theorem State.toReset_bb (s : State) : s.toReset.bb = Vector.replicate 64 0 := rfl
@[simp] theorem State.toReset_dg (s : State) : s.toReset.dg = 0 := rfl
@[simp] theorem State.toReset_blkcnt (s : State) : s.toReset.blkcnt = 0 := rfl
@[simp] theorem State.toReset_phase (s : State) : s.toReset.phase = .uninit := rfl
@[simp] theorem State.toReset_err (s : State) : s.toReset.err = false := rfl
@[simp] theorem State.toReset_errcode (s : State) : s.toReset.errcode = .none := rfl
@[simp] theorem State.toReset_errcmd (s : State) : s.toReset.errcmd = 0 := rfl
@[simp] theorem State.toReset_irqEn (s : State) : s.toReset.irqEn = false := rfl
@[simp] theorem State.toReset_doneP (s : State) : s.toReset.doneP = false := rfl
@[simp] theorem State.toReset_errP (s : State) : s.toReset.errP = false := rfl
@[simp] theorem State.toReset_busy (s : State) : s.toReset.busy = true := rfl
@[simp] theorem State.toReset_inflight (s : State) : s.toReset.inflight = Option.none := rfl
@[simp] theorem State.toReset_rndctr (s : State) : s.toReset.rndctr = 0 := rfl
@[simp] theorem State.toReset_clearing (s : State) : s.toReset.clearing = true := rfl
@[simp] theorem State.toReset_cfg (s : State) : s.toReset.cfg = s.cfg := rfl
@[simp] theorem State.toReset_events (s : State) : s.toReset.events = s.events := rfl
@[simp] theorem State.toReset_reply (s : State) : s.toReset.reply = .idle := rfl
@[simp] theorem State.toReset_draws (s : State) : s.toReset.draws = s.draws := rfl

/-! `State.recordError`: unchanged fields -/

@[simp] theorem State.recordError_S (s : State) (c : ErrCode) (w : Word) : (s.recordError c w).S = s.S := by
  unfold State.recordError; split <;> rfl
@[simp] theorem State.recordError_x (s : State) (c : ErrCode) (w : Word) : (s.recordError c w).x = s.x := by
  unfold State.recordError; split <;> rfl
@[simp] theorem State.recordError_bb (s : State) (c : ErrCode) (w : Word) : (s.recordError c w).bb = s.bb := by
  unfold State.recordError; split <;> rfl
@[simp] theorem State.recordError_dg (s : State) (c : ErrCode) (w : Word) : (s.recordError c w).dg = s.dg := by
  unfold State.recordError; split <;> rfl
@[simp] theorem State.recordError_blkcnt (s : State) (c : ErrCode) (w : Word) : (s.recordError c w).blkcnt = s.blkcnt := by
  unfold State.recordError; split <;> rfl
@[simp] theorem State.recordError_phase (s : State) (c : ErrCode) (w : Word) : (s.recordError c w).phase = s.phase := by
  unfold State.recordError; split <;> rfl
@[simp] theorem State.recordError_irqEn (s : State) (c : ErrCode) (w : Word) : (s.recordError c w).irqEn = s.irqEn := by
  unfold State.recordError; split <;> rfl
@[simp] theorem State.recordError_doneP (s : State) (c : ErrCode) (w : Word) : (s.recordError c w).doneP = s.doneP := by
  unfold State.recordError; split <;> rfl
@[simp] theorem State.recordError_busy (s : State) (c : ErrCode) (w : Word) : (s.recordError c w).busy = s.busy := by
  unfold State.recordError; split <;> rfl
@[simp] theorem State.recordError_inflight (s : State) (c : ErrCode) (w : Word) : (s.recordError c w).inflight = s.inflight := by
  unfold State.recordError; split <;> rfl
@[simp] theorem State.recordError_rndctr (s : State) (c : ErrCode) (w : Word) : (s.recordError c w).rndctr = s.rndctr := by
  unfold State.recordError; split <;> rfl
@[simp] theorem State.recordError_clearing (s : State) (c : ErrCode) (w : Word) : (s.recordError c w).clearing = s.clearing := by
  unfold State.recordError; split <;> rfl
@[simp] theorem State.recordError_cfg (s : State) (c : ErrCode) (w : Word) : (s.recordError c w).cfg = s.cfg := by
  unfold State.recordError; split <;> rfl
@[simp] theorem State.recordError_events (s : State) (c : ErrCode) (w : Word) : (s.recordError c w).events = s.events := by
  unfold State.recordError; split <;> rfl
@[simp] theorem State.recordError_reply (s : State) (c : ErrCode) (w : Word) : (s.recordError c w).reply = s.reply := by
  unfold State.recordError; split <;> rfl
@[simp] theorem State.recordError_draws (s : State) (c : ErrCode) (w : Word) : (s.recordError c w).draws = s.draws := by
  unfold State.recordError; split <;> rfl

/-! `State.raise`: unchanged fields and the completion -/

@[simp] theorem State.raise_S (s : State) (c : ErrCode) (w : Word) : (s.raise c w).S = s.S := by
  simp [State.raise]
@[simp] theorem State.raise_x (s : State) (c : ErrCode) (w : Word) : (s.raise c w).x = s.x := by
  simp [State.raise]
@[simp] theorem State.raise_bb (s : State) (c : ErrCode) (w : Word) : (s.raise c w).bb = s.bb := by
  simp [State.raise]
@[simp] theorem State.raise_dg (s : State) (c : ErrCode) (w : Word) : (s.raise c w).dg = s.dg := by
  simp [State.raise]
@[simp] theorem State.raise_blkcnt (s : State) (c : ErrCode) (w : Word) : (s.raise c w).blkcnt = s.blkcnt := by
  simp [State.raise]
@[simp] theorem State.raise_phase (s : State) (c : ErrCode) (w : Word) : (s.raise c w).phase = s.phase := by
  simp [State.raise]
@[simp] theorem State.raise_irqEn (s : State) (c : ErrCode) (w : Word) : (s.raise c w).irqEn = s.irqEn := by
  simp [State.raise]
@[simp] theorem State.raise_doneP (s : State) (c : ErrCode) (w : Word) : (s.raise c w).doneP = s.doneP := by
  simp [State.raise]
@[simp] theorem State.raise_busy (s : State) (c : ErrCode) (w : Word) : (s.raise c w).busy = false := by
  simp [State.raise]
@[simp] theorem State.raise_inflight (s : State) (c : ErrCode) (w : Word) : (s.raise c w).inflight = Option.none := by
  simp [State.raise]
@[simp] theorem State.raise_rndctr (s : State) (c : ErrCode) (w : Word) : (s.raise c w).rndctr = s.rndctr := by
  simp [State.raise]
@[simp] theorem State.raise_clearing (s : State) (c : ErrCode) (w : Word) : (s.raise c w).clearing = s.clearing := by
  simp [State.raise]
@[simp] theorem State.raise_cfg (s : State) (c : ErrCode) (w : Word) : (s.raise c w).cfg = s.cfg := by
  simp [State.raise]
@[simp] theorem State.raise_events (s : State) (c : ErrCode) (w : Word) : (s.raise c w).events = s.events := by
  simp [State.raise]
@[simp] theorem State.raise_reply (s : State) (c : ErrCode) (w : Word) : (s.raise c w).reply = s.reply := by
  simp [State.raise]
@[simp] theorem State.raise_draws (s : State) (c : ErrCode) (w : Word) : (s.raise c w).draws = s.draws := by
  simp [State.raise]

end Sys2Proof.Machine
end

