-- ==== Sys2Proof/Laws/Word.lean ====
section
/-! SUPPORT. Tables, bytes and residues: the small lemmas of Word.lean and Machine/Operands.lean. -/

namespace Sys2Proof

theorem getElem_upFrom {α : Type} (f : Nat → α) (n : Nat) :
    ∀ (a i : Nat) (h : i < (upFrom f a n).length), (upFrom f a n)[i] = f (a + i) := by
  induction n with
  | zero => intro a i h; simp [upFrom] at h
  | succ n ih =>
    intro a i h
    cases i with
    | zero => simp [upFrom]
    | succ i => simp only [upFrom, List.getElem_cons_succ, ih]; congr 1; omega

/-- An entry of a table. -/
@[simp] theorem getElem_tabulate {α : Type} (n : Nat) (f : Nat → α) (i : Nat) (h : i < n) :
    (tabulate n f)[i] = f i := by
  have := getElem_upFrom f n 0 i (by simpa [length_upFrom] using h)
  simpa [tabulate] using this

@[simp] theorem toList_tabulate {α : Type} (n : Nat) (f : Nat → α) : (tabulate n f).toList = upFrom f 0 n := rfl

/-- `upFrom` is a map over a range. -/
theorem upFrom_eq_map {α : Type} (f : Nat → α) (n : Nat) : ∀ a, upFrom f a n = (List.range' a n).map f := by
  induction n with
  | zero => intro a; rfl
  | succ n ih => intro a; simp [upFrom, ih, List.range'_succ]

/-- `allBelow` says that every entry is below the modulus. -/
theorem allBelow_iff (p : Nat) (t : Vector Residue 512) :
    allBelow p t = true ↔ ∀ (i : Nat) (h : i < 512), (t[i]'h).toNat < p := by
  simp only [allBelow, List.all_eq_true, decide_eq_true_eq]
  constructor
  · intro h i hi; exact h _ (by simp)
  · intro h x hx
    obtain ⟨i, hi, rfl⟩ := List.getElem_of_mem hx
    simpa using h i (by simpa using hi)

/-- What the type of a configuration says (R11 to R14, D13). -/
theorem Config.facts (c : Config) :
    (((((((modulusFloor ≤ c.p ∧ c.p < modulusCeiling) ∧ allBelow c.p c.iv = true) ∧
      c.rc.toList.all (allBelow c.p) = true) ∧ pairwiseDistinct c.rc.toList = true) ∧ 2 ≤ c.e) ∧ c.e < 2 ^ 32) ∧
      c.base % 4096 = 0) := by
  have h := c.wf
  simp only [Params.wellFormed, Bool.and_eq_true, decide_eq_true_eq] at h
  exact h

theorem Config.p_lower (c : Config) : modulusFloor ≤ c.p := c.facts.1.1.1.1.1.1.1

theorem Config.p_upper (c : Config) : c.p < modulusCeiling := c.facts.1.1.1.1.1.1.2

set_option exponentiation.threshold 1100 in
theorem modulusFloor_big : 2 ^ 64 ≤ modulusFloor := by
  unfold modulusFloor
  exact Nat.pow_le_pow_right (by decide) (by decide)

theorem modulusCeiling_eq : modulusCeiling = 2 ^ 1024 := rfl

theorem Config.p_pos (c : Config) : 0 < c.p :=
  lt_of_lt_of_le (by decide) (modulusFloor_big.trans c.p_lower)

/-- 0 is a residue. -/
theorem Config.zero_below (c : Config) : (0 : Residue).toNat < c.p := by
  have h : (0 : Residue).toNat = 0 := BitVec.toNat_zero
  rw [h]
  exact c.p_pos

theorem Config.iv_below (c : Config) : allBelow c.p c.iv = true := c.facts.1.1.1.1.1.2

theorem Config.rc_below (c : Config) : c.rc.toList.all (allBelow c.p) = true := c.facts.1.1.1.1.2

theorem Config.e_lower (c : Config) : 2 ≤ c.e := c.facts.1.1.2

set_option exponentiation.threshold 1100 in
/-- A value below P is held unchanged by a residue register (R11: a residue fits `W` bits). -/
theorem Config.toNat_ofNat_lt (c : Config) (n : Nat) (h : n < c.p) : (BitVec.ofNat 1024 n).toNat = n := by
  rw [BitVec.toNat_ofNat]
  exact Nat.mod_eq_of_lt (modulusCeiling_eq ▸ lt_trans h c.p_upper)

/-- A reduced value is held unchanged by a residue register. -/
theorem Config.toNat_ofNat_mod (c : Config) (n : Nat) : (BitVec.ofNat 1024 (n % c.p)).toNat = n % c.p :=
  c.toNat_ofNat_lt _ (Nat.mod_lt _ c.p_pos)

end Sys2Proof

namespace Sys2Proof.Machine

/-- `S[i]` after a write of `S[d]`. -/
theorem State.readS_writeS (s : State) (d i : Index) (v : Residue) :
    (s.writeS d v).readS i = if i = d then v else s.readS i := by
  by_cases h : i = d
  · subst h; simp [State.readS, State.writeS]
  · have : d.toNat ≠ i.toNat := fun e => h (BitVec.eq_of_toNat_eq e.symm)
    simp [State.readS, State.writeS, h, this]

theorem foldl_beVal (cs : List Byte) : ∀ n : Nat,
    cs.foldl (fun acc b => acc * 256 + b.toNat) n = n * 256 ^ cs.length + beVal cs := by
  induction cs with
  | nil => intro n; simp [beVal]
  | cons b cs ih =>
    intro n
    have h0 : beVal (b :: cs) = b.toNat * 256 ^ cs.length + beVal cs := by
      rw [beVal, List.foldl_cons, ih]; simp
    rw [List.foldl_cons, ih, h0, List.length_cons, pow_succ]
    ring

theorem beVal_append (bs cs : List Byte) : beVal (bs ++ cs) = beVal bs * 256 ^ cs.length + beVal cs := by
  rw [beVal, List.foldl_append, foldl_beVal cs]
  rfl

theorem beVal_lt (bs : List Byte) : beVal bs < 256 ^ bs.length := by
  induction bs using List.reverseRecOn with
  | nil => simp [beVal]
  | append_singleton bs b ih =>
    rw [beVal_append]
    have hb : beVal [b] < 256 := by simpa [beVal] using b.isLt
    simp only [List.length_append, List.length_singleton, pow_succ]
    omega

/-- A chunk of 8 bytes is below P, so its reduction changes nothing (R173). -/
theorem beVal_chunk_lt (c : Config) (bs : List Byte) : beVal (bs.take 8) < c.p := by
  have h1 := beVal_lt (bs.take 8)
  have h2 : (256 : Nat) ^ (bs.take 8).length ≤ 256 ^ 8 :=
    Nat.pow_le_pow_right (by norm_num) (by simp)
  have h3 : (256 : Nat) ^ 8 = 2 ^ 64 := by norm_num
  exact lt_of_lt_of_le h1 (h2.trans (h3.le.trans (modulusFloor_big.trans c.p_lower)))

/-- The padded last block as a list (R176). -/
theorem lastBlock_toList (bb : Vector Byte 64) (len : BitVec 6) :
    (lastBlock bb len).toList = bb.toList.take len.toNat ++ [0x80] ++ List.replicate (63 - len.toNat) 0x00 := by
  have hlen := len.isLt
  apply List.ext_getElem
  · simp; omega
  · intro i h1 h2
    have h0 : i < 64 := by simpa using h1
    have e : (lastBlock bb len).toList[i] =
        if i < len.toNat then blockByte bb i else if i = len.toNat then 0x80 else 0x00 := by
      have eL : (lastBlock bb len).toList = upFrom
          (fun j => if j < len.toNat then blockByte bb j else if j = len.toNat then 0x80 else 0x00) 0 64 := by
        unfold lastBlock; simp
      simp only [eL, getElem_upFrom, Nat.zero_add]
    refine e.trans ?_
    rcases lt_trichotomy i len.toNat with h | h | h
    · rw [if_pos h, List.getElem_append_left (by simp; omega), List.getElem_append_left (by simp; omega)]
      simp [blockByte, Vector.getD, h0]
    · rw [if_neg (by omega), if_pos h, List.getElem_append_left (by simp; omega),
        List.getElem_append_right (by simp; omega)]
      simp
    · rw [if_neg (by omega), if_neg (by omega), List.getElem_append_right (by simp; omega)]
      simp

end Sys2Proof.Machine
end

