-- ==== Sys2Proof/Laws/Ops.lean ====
section
/-! SUPPORT. What each shared operation can do, said once. -/

namespace Sys2Proof.Machine

/-- Recording an error: nothing while halted, else the four fields of R29. -/
theorem State.recordError_cases (s : State) (c : ErrCode) (w : Word) :
    (s.err = true ∧ s.recordError c w = s) ∨
    (s.err = false ∧ s.recordError c w = { s with err := true, errcode := c, errcmd := w, errP := true }) := by
  unfold State.recordError
  cases h : s.err <;> simp

/-- Raising an error during a command. -/
theorem State.raise_cases (s : State) (c : ErrCode) (w : Word) :
    (s.err = true ∧ s.raise c w = s.complete) ∨
    (s.err = false ∧ s.raise c w =
      { s with err := true, errcode := c, errcmd := w, errP := true, inflight := Option.none, busy := false }) := by
  unfold State.raise
  rcases s.recordError_cases c w with ⟨h, e⟩ | ⟨h, e⟩
  · exact .inl ⟨h, by rw [e]⟩
  · exact .inr ⟨h, by rw [e]; rfl⟩

/-- A write of CMD (R124). -/
theorem State.issue_cases (s : State) (w : Word) :
    (s.err = true ∧ s.issue w = s) ∨
    (s.err = false ∧ s.busy = true ∧ s.issue w = s.recordError .busyViolation w) ∨
    (s.err = false ∧ s.busy = false ∧ s.issue w = s.accept w) := by
  unfold State.issue
  cases h : s.err <;> cases h' : s.busy <;> simp

/-- A write to a data window (R47, R48, R225). -/
theorem State.guardData_cases (s t : State) :
    (s.busy = true ∧ s.guardData t = s.recordError .busyViolation 0) ∨ (s.busy = false ∧ s.guardData t = t) := by
  unfold State.guardData
  cases h : s.busy <;> simp

/-- A read changes nothing but the answer of the port and, where it is unspecified, the count of draws (R87). -/
theorem State.readReg_cases (s : State) (r : Reg) :
    (s.busy = true ∧ r.unspecifiedWhileBusy = true ∧
      s.readReg r = { s with reply := .data (Config.freeWord s.draws), draws := s.draws + 1 }) ∨
    ((s.busy = false ∨ r.unspecifiedWhileBusy = false) ∧ s.readReg r = { s with reply := .data (s.regWord r) }) := by
  unfold State.readReg
  cases h : s.busy <;> cases h' : r.unspecifiedWhileBusy <;> simp [State.drawWord, h]

/-- A write of CTRL (R41). -/
theorem State.writeCtrl_cases (s : State) (w : Word) :
    (w.getLsbD 0 = true ∧ s.writeCtrl w = s.toReset) ∨
    (w.getLsbD 0 = false ∧ s.writeCtrl w = { s with irqEn := w.getLsbD 1 }) := by
  unfold State.writeCtrl
  cases h : w.getLsbD 0 <;> simp

/-- A unit's result or its failure (R143, R144). -/
theorem State.writeResult_cases (s : State) (d : Index) (w : Word) (o : Option Residue) :
    (∃ v, o = some v ∧ s.writeResult d w o = (s.writeS d v).finish) ∨
    (o = Option.none ∧ s.writeResult d w o = s.raiseInternal w) := by
  cases o with
  | none => exact .inr ⟨rfl, rfl⟩
  | some v => exact .inl ⟨v, rfl, rfl⟩

/-- The adder answers exactly when both operands are below P (R144). -/
theorem adder_cases (p : Nat) (a b : Residue) :
    (a.toNat < p ∧ b.toNat < p ∧ adder p a b = some (BitVec.ofNat 1024 (modAdd p a.toNat b.toNat))) ∨
    (¬ (a.toNat < p ∧ b.toNat < p) ∧ adder p a b = Option.none) := by
  unfold adder operandOk
  by_cases h : a.toNat < p <;> by_cases h' : b.toNat < p <;> simp [h, h']

/-- The multiplier answers exactly when both operands are below P (R144). -/
theorem multiplier_cases (p : Nat) (a b : Residue) :
    (a.toNat < p ∧ b.toNat < p ∧ multiplier p a b = some (BitVec.ofNat 1024 (modMul p a.toNat b.toNat))) ∨
    (¬ (a.toNat < p ∧ b.toNat < p) ∧ multiplier p a b = Option.none) := by
  unfold multiplier operandOk
  by_cases h : a.toNat < p <;> by_cases h' : b.toNat < p <;> simp [h, h']

/-- The exponentiator answers exactly when its operand is below P (R142, R144). -/
theorem exponentiator_cases (p e : Nat) (a : Residue) :
    (a.toNat < p ∧ exponentiator p e a = some (BitVec.ofNat 1024 (modPow p e a.toNat))) ∨
    (¬ a.toNat < p ∧ exponentiator p e a = Option.none) := by
  unfold exponentiator operandOk
  by_cases h : a.toNat < p <;> simp [h]

/-- A fold of sequencer rounds changes only S and RNDCTR. -/
theorem State.foldl_runRound (rs : List (BitVec 4)) : ∀ s : State,
    ∃ r, rs.foldl State.runRound s = { s with S := rs.foldl (round s.cfg) s.S, rndctr := r } := by
  induction rs with
  | nil => intro s; exact ⟨s.rndctr, rfl⟩
  | cons r rs ih =>
    intro s
    obtain ⟨r', e⟩ := ih (s.runRound r)
    exact ⟨r', by rw [List.foldl_cons, e]; rfl⟩

/-- The sequencer computes `Permute` and leaves RNDCTR at 0 (R191, R195, R196). -/
theorem State.runPermutation_eq (s : State) :
    s.runPermutation = { s with S := permute s.cfg s.S, rndctr := 0 } := by
  obtain ⟨r, e⟩ := State.foldl_runRound roundIndices s
  unfold State.runPermutation
  rw [e]
  rfl

/-- In a machine, a permutation fails only on a state residue: the round constants are below P by type (R228). -/
theorem permutationOk_iff (c : Config) (S : Vector Residue 512) :
    permutationOk c S = true ↔ ∀ (i : Nat) (h : i < 512), (S[i]'h).toNat < c.p := by
  simp only [permutationOk, c.rc_below, Bool.and_true, allBelow_iff]

/-- The four outcomes of an absorb command, in the order of the checks (R226). -/
theorem State.absorb_cases (s : State) (w : Word) (blk : Vector Byte 64) (after : Phase) :
    (s.phase ≠ .absorbing ∧ s.absorb w blk after = s.raise .sequence w) ∨
    (s.phase = .absorbing ∧ s.blkcnt = blkcntMax ∧ s.absorb w blk after = s.raise .inputTooLarge w) ∨
    (s.phase = .absorbing ∧ s.blkcnt ≠ blkcntMax ∧ permutationOk s.cfg s.S = true ∧ s.absorb w blk after =
      { s with S := absorbBlock s.cfg s.S blk, rndctr := 0, blkcnt := s.blkcnt + 1, phase := after,
               inflight := Option.none, busy := false, doneP := true }) ∨
    (s.phase = .absorbing ∧ s.blkcnt ≠ blkcntMax ∧ permutationOk s.cfg s.S = false ∧
      s.absorb w blk after = s.raiseInternal w) := by
  unfold State.absorb
  by_cases h1 : s.phase = .absorbing
  · by_cases h2 : s.blkcnt = blkcntMax
    · right; left; simp [h1, h2]
    · cases h3 : permutationOk s.cfg s.S
      · right; right; right; simp [h1, h2]
      · right; right; left
        rw [State.runPermutation_eq]
        simp [h1, h2, absorbBlock, State.finish, State.complete]
  · left; simp [h1]

/-- Every meaning answers a next state: an error of this hardware is a state (R224). -/
theorem exec_answers_next (i : Instr) (s : State) : ∃ t, exec i s = .next t := by
  cases i <;> simp only [exec, execNop, execInit, execAbsorb, execAbsorbLast, execPermute, execSqueeze, execWrs,
    execRds, execModadd, execModmul, execModpow] <;> first | exact ⟨_, rfl⟩ | (split <;> exact ⟨_, rfl⟩)

/-- What the core's own move can do (R125, R126, R251, R238). -/
theorem State.coreMove_cases (s : State) :
    (s.clearing = true ∧ s.coreMove = .next s.endClear) ∨
    (s.clearing = false ∧ s.inflight = Option.none ∧ s.coreMove = .next s) ∨
    (s.clearing = false ∧ ∃ w, s.inflight = some w ∧
      ((∃ i, decode w = .ok i ∧ s.coreMove = exec i s) ∨
       (∃ e, decode w = .error e ∧ s.coreMove = .next (s.raise .illegalCmd w)))) := by
  unfold State.coreMove
  cases hc : s.clearing
  · right
    cases hi : s.inflight with
    | none => left; simp
    | some w =>
      right
      refine ⟨rfl, w, rfl, ?_⟩
      cases hd : decode w with
      | ok i => left; exact ⟨i, rfl, by simp [hd]⟩
      | error e => right; exact ⟨e, rfl, by simp [hd]⟩
  · left; simp

end Sys2Proof.Machine
end

