-- ==== Sys2Proof/Laws/Bus.lean ====
section
/-! SUPPORT. Accesses by the register they reach, the offsets of the three windows, and the pieces of a window word. -/

namespace Sys2Proof.Machine

/-- An accepted write does what its register says (R82). -/
theorem State.access_write_reg (s : State) (off : BitVec 12) (w : Word) (r : Reg)
    (hok : accessOk off 4 = true) (hr : regAt off = r) :
    s.access (.write off 4 w) = { s.writeReg r w with reply := .ack } := by
  simp only [State.access, hok, hr, if_true]

/-- An accepted read answers with its register (R82). -/
theorem State.access_read_reg (s : State) (off : BitVec 12) (r : Reg)
    (hok : accessOk off 4 = true) (hr : regAt off = r) : s.access (.read off 4) = s.readReg r := by
  simp only [State.access, hok, hr, if_true]

/-- X_WORD[k] (R38, R47). -/
theorem regAt_xWord : ∀ k < 32, accessOk (BitVec.ofNat 12 (0x080 + 4 * k)) 4 = true ∧
    regAt (BitVec.ofNat 12 (0x080 + 4 * k)) = .xWord k := by decide

/-- BB_WORD[k] (R38, R48). -/
theorem regAt_bbWord : ∀ k < 16, accessOk (BitVec.ofNat 12 (0x100 + 4 * k)) 4 = true ∧
    regAt (BitVec.ofNat 12 (0x100 + 4 * k)) = .bbWord k := by decide

/-- DG_WORD[k] (R38, R49). -/
theorem regAt_dgWord : ∀ k < 32, accessOk (BitVec.ofNat 12 (0x180 + 4 * k)) 4 = true ∧
    regAt (BitVec.ofNat 12 (0x180 + 4 * k)) = .dgWord k := by decide

/-- The mask of one window word. -/
theorem getLsbD_wordMask (i : Nat) : (0xFFFFFFFF : Residue).getLsbD i = decide (i < 32) := by
  have h : (0xFFFFFFFF : Residue).getLsbD i = (decide (i < 1024) && Nat.testBit (2 ^ 32 - 1) i) :=
    BitVec.getLsbD_ofNat _ _ _
  rw [h, Nat.testBit_two_pow_sub_one]
  by_cases h : i < 32
  · simp [h]; omega
  · simp [h]

/-- A byte of the block buffer inside its bounds. -/
theorem blockByte_eq (bb : Vector Byte 64) (j : Nat) (h : j < 64) : blockByte bb j = bb[j] := by
  simp [blockByte, Vector.getD, h]

/-- The four bytes of a word of the block buffer, the most significant first. -/
theorem extract_append4 (a b c d : Byte) :
    (a ++ b ++ c ++ d).extractLsb' 24 8 = a ∧ (a ++ b ++ c ++ d).extractLsb' 16 8 = b ∧
    (a ++ b ++ c ++ d).extractLsb' 8 8 = c ∧ (a ++ b ++ c ++ d).extractLsb' 0 8 = d := by
  have e : (a ++ b ++ c ++ d).toNat = ((a.toNat * 256 + b.toNat) * 256 + c.toNat) * 256 + d.toNat := by
    simp only [BitVec.toNat_append]
    rw [← Nat.shiftLeft_add_eq_or_of_lt b.isLt, ← Nat.shiftLeft_add_eq_or_of_lt c.isLt,
      ← Nat.shiftLeft_add_eq_or_of_lt d.isLt]
    simp [Nat.shiftLeft_eq]
  have ha := a.isLt
  have hb := b.isLt
  have hc := c.isLt
  have hd := d.isLt
  refine ⟨?_, ?_, ?_, ?_⟩ <;> apply BitVec.eq_of_toNat_eq <;>
    rw [BitVec.extractLsb'_toNat, e, Nat.shiftRight_eq_div_pow] <;> omega

/-- Word `k` of one block buffer written into another (R48). -/
theorem getElem_putBbWord_bbWord (v bb : Vector Byte 64) (k : Nat) (hk : k < 16) (j : Nat) (h : j < 64) :
    (putBbWord bb k (bbWord v k))[j] = if 4 * k ≤ j ∧ j < 4 * k + 4 then v[j] else bb[j] := by
  unfold putBbWord bbWord
  rw [blockByte_eq _ _ (by omega), blockByte_eq _ _ (by omega), blockByte_eq _ _ (by omega),
    blockByte_eq _ _ (by omega)]
  obtain ⟨e0, e1, e2, e3⟩ := extract_append4 v[4 * k] v[4 * k + 1] v[4 * k + 2] v[4 * k + 3]
  rw [e0, e1, e2, e3]
  simp only [Vector.getElem_setIfInBounds]
  split_ifs <;> first | rfl | omega | (subst_vars; rfl)

end Sys2Proof.Machine
end

