-- ==== Sys2Proof/Laws/Decode.lean ====
section
/-! SUPPORT. A command word and its fields (R111): taking a word apart and putting it together. -/

namespace Sys2Proof

/-- The value of an appended bit string (R17: the left part is the more significant). -/
theorem toNat_append_add {m n : Nat} (x : BitVec m) (y : BitVec n) : (x ++ y).toNat = x.toNat * 2 ^ n + y.toNat := by
  rw [BitVec.toNat_append, ← Nat.shiftLeft_add_eq_or_of_lt y.isLt, Nat.shiftLeft_eq]

/-- The value of a word (R120: `OP << 27 | D << 18 | A << 9 | B`). -/
theorem toNat_assembleFields (op : BitVec 5) (d a b : Index) :
    (assembleFields op d a b).toNat = op.toNat * 2 ^ 27 + d.toNat * 2 ^ 18 + a.toNat * 2 ^ 9 + b.toNat := by
  unfold assembleFields
  simp only [toNat_append_add]
  omega

theorem toNat_opField (w : Word) : (opField w).toNat = w.toNat / 2 ^ 27 % 2 ^ 5 := by
  simp [opField, BitVec.extractLsb'_toNat, Nat.shiftRight_eq_div_pow]

theorem toNat_dField (w : Word) : (dField w).toNat = w.toNat / 2 ^ 18 % 2 ^ 9 := by
  simp [dField, BitVec.extractLsb'_toNat, Nat.shiftRight_eq_div_pow]

theorem toNat_aField (w : Word) : (aField w).toNat = w.toNat / 2 ^ 9 % 2 ^ 9 := by
  simp [aField, BitVec.extractLsb'_toNat, Nat.shiftRight_eq_div_pow]

theorem toNat_bField (w : Word) : (bField w).toNat = w.toNat % 2 ^ 9 := by
  simp [bField, BitVec.extractLsb'_toNat]

theorem toNat_lenField (w : Word) : (lenField w).toNat = w.toNat % 2 ^ 6 := by
  simp [lenField, BitVec.extractLsb'_toNat]

theorem toNat_bHighField (w : Word) : (bHighField w).toNat = w.toNat / 2 ^ 6 % 2 ^ 3 := by
  simp [bHighField, BitVec.extractLsb'_toNat, Nat.shiftRight_eq_div_pow]

section
variable (op : BitVec 5) (d a b : Index)

@[simp] theorem opField_assembleFields : opField (assembleFields op d a b) = op := by
  apply BitVec.eq_of_toNat_eq
  rw [toNat_opField, toNat_assembleFields]
  have := op.isLt; have := d.isLt; have := a.isLt; have := b.isLt
  omega

@[simp] theorem dField_assembleFields : dField (assembleFields op d a b) = d := by
  apply BitVec.eq_of_toNat_eq
  rw [toNat_dField, toNat_assembleFields]
  have := op.isLt; have := d.isLt; have := a.isLt; have := b.isLt
  omega

@[simp] theorem aField_assembleFields : aField (assembleFields op d a b) = a := by
  apply BitVec.eq_of_toNat_eq
  rw [toNat_aField, toNat_assembleFields]
  have := op.isLt; have := d.isLt; have := a.isLt; have := b.isLt
  omega

@[simp] theorem bField_assembleFields : bField (assembleFields op d a b) = b := by
  apply BitVec.eq_of_toNat_eq
  rw [toNat_bField, toNat_assembleFields]
  have := op.isLt; have := d.isLt; have := a.isLt; have := b.isLt
  omega

@[simp] theorem lenField_assembleFields (len : BitVec 6) :
    lenField (assembleFields op d a (len.setWidth 9)) = len := by
  apply BitVec.eq_of_toNat_eq
  rw [toNat_lenField, toNat_assembleFields]
  have := len.isLt
  simp only [BitVec.toNat_setWidth]
  omega

@[simp] theorem bHighField_assembleFields (len : BitVec 6) :
    bHighField (assembleFields op d a (len.setWidth 9)) = 0 := by
  apply BitVec.eq_of_toNat_eq
  rw [toNat_bHighField, toNat_assembleFields]
  have := len.isLt
  have h0 : (0 : BitVec 3).toNat = 0 := rfl
  rw [h0, BitVec.toNat_setWidth]
  omega

end

/-- A word is made of its fields. -/
theorem assembleFields_of_fields (w : Word) : assembleFields (opField w) (dField w) (aField w) (bField w) = w := by
  apply BitVec.eq_of_toNat_eq
  rw [toNat_assembleFields, toNat_opField, toNat_dField, toNat_aField, toNat_bField]
  have := w.isLt
  omega

/-- With the bits above LEN zero, the B field is LEN. -/
theorem bField_eq_len (w : Word) (h : bHighField w = 0) : bField w = (lenField w).setWidth 9 := by
  apply BitVec.eq_of_toNat_eq
  have h' := congrArg BitVec.toNat h
  rw [toNat_bHighField] at h'
  have h0 : (0 : BitVec 3).toNat = 0 := rfl
  rw [BitVec.toNat_setWidth, toNat_bField, toNat_lenField]
  omega

/-- A guarded decoding answers a command exactly when the reserved bits are 0 (R117). -/
theorem guardReserved_ok (c : Bool) (i j : Instr) : guardReserved c i = .ok j ↔ c = true ∧ i = j := by
  unfold guardReserved
  cases c <;> simp

end Sys2Proof
end

