-- ==== Sys2Proof/Laws/Permutation.lean ====
section
/-! SUPPORT. Every residue the permutation and the absorption write is below P (R22, R192). -/

namespace Sys2Proof.Machine

/-- `S'[i]` of one round, as a number (R192). -/
theorem toNat_round (c : Config) (S : Vector Residue 512) (r : BitVec 4) (i : Nat) (h : i < 512) :
    ((round c S r)[i]'h).toNat =
      modPow c.p c.e (modAdd c.p (diffuse c.p S i) (roundConstant c r i)) := by
  unfold round
  rw [getElem_tabulate]
  unfold modPow
  exact c.toNat_ofNat_mod _

theorem round_below (c : Config) (S : Vector Residue 512) (r : BitVec 4) (i : Nat) (h : i < 512) :
    ((round c S r)[i]'h).toNat < c.p := by
  rw [toNat_round]
  exact Nat.mod_lt _ c.p_pos

theorem foldl_round_below (c : Config) (rs : List (BitVec 4)) : ∀ S : Vector Residue 512,
    (∀ (i : Nat) (h : i < 512), (S[i]'h).toNat < c.p) →
    ∀ (i : Nat) (h : i < 512), ((rs.foldl (round c) S)[i]'h).toNat < c.p := by
  induction rs with
  | nil => intro S hS; exact hS
  | cons r rs ih => intro S _; exact ih _ (round_below c S r)

/-- `Permute` of residues is residues. -/
theorem permute_below (c : Config) (S : Vector Residue 512) (hS : ∀ (i : Nat) (h : i < 512), (S[i]'h).toNat < c.p)
    (i : Nat) (h : i < 512) : ((permute c S)[i]'h).toNat < c.p :=
  foldl_round_below c roundIndices S hS i h

/-- The state with a block added in is residues (R174). -/
theorem addBlock_below (c : Config) (S : Vector Residue 512) (blk : Vector Byte 64)
    (hS : ∀ (i : Nat) (h : i < 512), (S[i]'h).toNat < c.p) (i : Nat) (h : i < 512) :
    ((addBlock c.p S blk)[i]'h).toNat < c.p := by
  unfold addBlock
  rw [getElem_tabulate]
  split
  · unfold modAdd; rw [c.toNat_ofNat_mod]; exact Nat.mod_lt _ c.p_pos
  · simpa [Vector.getD, h] using hS i h

/-- `AbsorbBlock` of residues is residues. -/
theorem absorbBlock_below (c : Config) (S : Vector Residue 512) (blk : Vector Byte 64)
    (hS : ∀ (i : Nat) (h : i < 512), (S[i]'h).toNat < c.p) (i : Nat) (h : i < 512) :
    ((absorbBlock c S blk)[i]'h).toNat < c.p :=
  permute_below c _ (addBlock_below c S blk hS) i h

end Sys2Proof.Machine
end

