-- ==== Sys2Proof/Laws/Step.lean ====
section
/-! SUPPORT. What a step and a run do, and the residue invariant by element. -/

namespace Sys2Proof.Machine

/-- A run of one more step goes on from what the first step answers. -/
theorem run_succ (n : Nat) (s u : State) (h : step s = .next u) :
    Host.Core.run Sys2Proof.core (n + 1) s = Host.Core.run Sys2Proof.core n u := by
  have h' : Sys2Proof.core.step s = .next u := h
  simp only [Host.Core.run, h']

/-- A run of `m` steps and then `n` more. -/
theorem run_add (m n : Nat) : ∀ s u : State, Host.Core.run Sys2Proof.core m s = .next u →
    Host.Core.run Sys2Proof.core (m + n) s = Host.Core.run Sys2Proof.core n u := by
  induction m with
  | zero => intro s u h; cases h; rw [Nat.zero_add]
  | succ m ih =>
    intro s u h
    rw [Nat.succ_add]
    simp only [Host.Core.run] at h ⊢
    cases hs : Sys2Proof.core.step s with
    | next v => rw [hs] at h; exact ih v u h
    | fault r => rw [hs] at h; cases h
    | refused r => rw [hs] at h; cases h

/-- Two runs one after the other. -/
theorem run_trans {k m n : Nat} {s u : State} {o : Host.Outcome State Fault Refusal} (hk : k = m + n)
    (h : Host.Core.run Sys2Proof.core m s = .next u) (h' : Host.Core.run Sys2Proof.core n u = o) :
    Host.Core.run Sys2Proof.core k s = o := by
  subst hk
  exact (run_add m n s u h).trans h'

/-- One step with an event waiting (R97). -/
theorem step_event (s : State) (e : Event) (rest : List Event) (h : s.events = e :: rest) :
    step s = { s with events := rest }.take e := by
  simp only [step, State.nextMove, h]

/-- One step with none waiting (R262). -/
theorem step_idle (s : State) (h : s.events = []) : step s = s.coreMove := by
  simp only [step, State.nextMove, h]

theorem State.residuesBelow_iff (s : State) :
    s.ResiduesBelow ↔ ∀ (i : Nat) (h : i < 512), (s.S[i]'h).toNat < s.cfg.p := by
  constructor
  · intro h i hi
    have := h (BitVec.ofNat 9 i)
    simpa [State.readS, Nat.mod_eq_of_lt hi] using this
  · intro h i; exact h _ i.isLt

/-- In a machine a permutation goes through exactly when the state's residues are below P. -/
theorem State.permutationOk_residues (s : State) : permutationOk s.cfg s.S = true ↔ s.ResiduesBelow := by
  rw [permutationOk_iff, State.residuesBelow_iff]

end Sys2Proof.Machine
end

