-- ==== Sys2Proof/Laws/Host.lean ====
section
/-! SUPPORT. What the host's pseudo-operations do, said once each. -/

namespace Sys2Proof.Machine

@[simp] theorem andThen_next {α β : Type} (a : α) (f : α → Host.Outcome β Fault Refusal) :
    andThen (.next a) f = f a := rfl

/-- An event that happens next is taken on the state as it is. -/
theorem State.happens_eq (s : State) (e : Event) : s.happens e = s.take e := rfl

/-- What follows an outcome known to be a next state. -/
theorem andThen_of_next {α β : Type} {o : Host.Outcome α Fault Refusal} {a : α}
    {f : α → Host.Outcome β Fault Refusal} (h : o = .next a) : andThen o f = f a := by rw [h]; rfl

/-- A read of STATUS by the host (R42). -/
theorem State.happens_readStatus (s : State) :
    s.happens (memRead 0x00C) = .next { s with reply := .data s.statusWord } := by
  rw [State.happens_eq]
  simp only [State.take, memRead]
  rw [State.access_read_reg _ _ .status (by decide) (by decide)]
  simp [State.readReg, Reg.unspecifiedWhileBusy, State.regWord]

/-- The word of STATUS shows BUSY in bit 0. -/
theorem State.readBusy_status (s : State) : ({ s with reply := .data s.statusWord } : State).readBusy = s.busy := by
  simp only [State.readBusy, BusReply.words, List.any_cons, List.any_nil, Bool.or_false, State.statusWord]
  rcases s.busy <;> rcases s.err <;> rcases s.phase <;> rcases s.errcode <;> decide

/-- A POLL ends with the work in flight completed, whatever the schedule. -/
theorem State.poll_completes (u : State) (hu : u.busy = false) (schedule : List Bool) : ∀ s : State, s.busy = true →
    (∀ r, ({ s with reply := r } : State).coreMove = .next { u with reply := r }) →
    ∃ r, s.poll schedule = .next { u with reply := r } := by
  induction schedule with
  | nil =>
    intro s _ h
    refine ⟨.data u.statusWord, ?_⟩
    have e : s.happens .core = .next { u with reply := s.reply } := h s.reply
    simp only [State.poll]
    rw [andThen_of_next e, State.happens_readStatus]
    rfl
  | cons moves schedule ih =>
    intro s hb h
    cases moves with
    | true =>
      refine ⟨.data u.statusWord, ?_⟩
      have e : s.happens .core = .next { u with reply := s.reply } := h s.reply
      simp only [State.poll, if_true]
      rw [andThen_of_next e, andThen_of_next (State.happens_readStatus _), State.readBusy_status]
      exact if_neg (by simp [hu])
    | false =>
      simp only [State.poll, Bool.false_eq_true, if_false, andThen_next]
      obtain ⟨r, e⟩ := ih { s with reply := .data s.statusWord } hb h
      rw [andThen_of_next (State.happens_readStatus _), State.readBusy_status]
      exact ⟨r, (if_pos hb).trans e⟩

/-- A command line on a core with no work and no error ends where the command's meaning leads, whatever the schedule. -/
theorem State.line_completes (s u : State) (i : Instr) (schedule : List Bool) (hd : decode (encode i) = .ok i)
    (hc : s.clearing = false) (hb : s.busy = false) (he : s.err = false) (hu : u.busy = false)
    (hx : ∀ r, exec i { s with inflight := some (encode i), busy := true, reply := r } = .next { u with reply := r }) :
    ∃ r, s.line i schedule = .next { u with reply := r } := by
  have e : s.happens (hostIssue i) =
      .next { s with inflight := some (encode i), busy := true, reply := .ack } := by
    rw [State.happens_eq]
    simp only [State.take, hostIssue, memWrite]
    rw [State.access_write_reg _ _ _ .cmd (by decide) (by decide)]
    simp [State.writeReg, State.issue, hb, he, State.accept]
  rw [State.line, andThen_of_next e]
  refine State.poll_completes u hu schedule _ rfl fun r => ?_
  rw [← hx r]
  simp only [State.coreMove, hc, hd]
  rfl

/-- Writes of block-buffer words `k` to `k + n - 1` while BUSY = 0. -/
theorem State.hostWrites_bb (v : Vector Byte 64) (n : Nat) : ∀ (k : Nat) (s : State), k + n ≤ 16 → s.busy = false →
    ∃ r bb', s.hostWrites (upFrom (fun k => memWrite (0x100 + 4 * k) (bbWord v k)) k n) =
        .next { s with bb := bb', reply := r } ∧
      ∀ (j : Nat) (h : j < 64), bb'[j] = if 4 * k ≤ j ∧ j < 4 * (k + n) then v[j] else s.bb[j] := by
  induction n with
  | zero => intro k s _ _; exact ⟨s.reply, s.bb, rfl, fun j h => by rw [if_neg (by omega)]⟩
  | succ n ih =>
    intro k s hk hb
    have hk' : k < 16 := by omega
    have e : s.happens (memWrite (0x100 + 4 * k) (bbWord v k)) =
        .next { s with bb := putBbWord s.bb k (bbWord v k), reply := .ack } := by
      rw [State.happens_eq]
      simp only [State.take, memWrite]
      rw [State.access_write_reg _ _ _ (.bbWord k) (regAt_bbWord k hk').1 (regAt_bbWord k hk').2]
      simp [State.writeReg, State.guardData, hb]
    obtain ⟨r, bb', e', hbb⟩ := ih (k + 1) { s with bb := putBbWord s.bb k (bbWord v k), reply := .ack } (by omega) hb
    refine ⟨r, bb', ?_, fun j h => ?_⟩
    · simp only [upFrom, State.hostWrites]
      rw [andThen_of_next e]
      exact e'
    · rw [hbb j h]
      show (if _ then _ else (putBbWord s.bb k (bbWord v k))[j]) = _
      rw [getElem_putBbWord_bbWord v s.bb k hk' j h]
      split_ifs <;> first | rfl | omega

/-- `WRBB` while BUSY = 0 (R122): the block buffer holds the bytes with zeros behind them. -/
theorem State.wrbb_next (s : State) (m : List Byte) (hb : s.busy = false) :
    ∃ r, s.wrbb m = .next { s with bb := blockAt m 0, reply := r } := by
  obtain ⟨r, bb', e, h⟩ := State.hostWrites_bb (blockAt m 0) 16 0 s (by omega) hb
  have h' : bb' = blockAt m 0 := Vector.ext fun j hj => by rw [h j hj, if_pos (by omega)]
  exact ⟨r, h' ▸ e⟩

/-- Reads of `n` digest words from word `k` on while BUSY = 0. -/
theorem State.hostReads_dg (n : Nat) : ∀ (k : Nat) (s : State), k + n ≤ 32 → s.busy = false →
    ∃ r, s.hostReads (upFrom (fun k => memRead (0x180 + 4 * k)) k n) =
      .next (upFrom (windowWord s.dg) k n, { s with reply := r }) := by
  induction n with
  | zero => intro k s _ _; exact ⟨s.reply, rfl⟩
  | succ n ih =>
    intro k s hk hb
    have hk' : k < 32 := by omega
    have e : s.happens (memRead (0x180 + 4 * k)) = .next { s with reply := .data (windowWord s.dg k) } := by
      rw [State.happens_eq]
      simp only [State.take, memRead]
      rw [State.access_read_reg _ _ (.dgWord k) (regAt_dgWord k hk').1 (regAt_dgWord k hk').2]
      simp [State.readReg, hb, State.regWord]
    obtain ⟨r, e'⟩ := ih (k + 1) { s with reply := .data (windowWord s.dg k) } (by omega) hb
    refine ⟨r, ?_⟩
    simp only [upFrom, State.hostReads]
    rw [andThen_of_next e, andThen_of_next e']
    rfl

/-- `RDDG` while BUSY = 0 (R122) returns the words of DG, joined. -/
theorem State.rddg_next (s : State) (hb : s.busy = false) :
    ∃ r, s.rddg = .next (BitVec.ofNat 1024 (joinWords (upFrom (windowWord s.dg) 0 32)), { s with reply := r }) := by
  obtain ⟨r, e⟩ := State.hostReads_dg 32 0 s (by omega) hb
  refine ⟨r, ?_⟩
  rw [State.rddg, hostRddg, andThen_of_next e]
  rfl

end Sys2Proof.Machine
end

