-- ==== Sys2Proof/Laws/PerInstr.lean ====
section
/-! SUPPORT. Families of statements about every command as syntax, one lemma per constructor of Instr. -/

namespace Sys2Proof.Laws.RowMatch

/-- The word of the command matches the command's own row of the opcode map (R115). -/
def Statement (i : Instr) : Prop :=
  (opcodeRow i).matchesWord (encode i) = true

/-- Matching a row, bit by bit. -/
theorem of_bits (w m p : Word) (h : ∀ k < 32, (w.getLsbD k && m.getLsbD k) = p.getLsbD k) :
    OpcodeRow.matchesWord ⟨p, m⟩ w = true := by
  simp only [OpcodeRow.matchesWord, beq_iff_eq]
  apply BitVec.eq_of_getLsbD_eq
  intro k hk
  rw [BitVec.getLsbD_and, h k hk]

theorem nop : Statement .nop := by unfold Statement; decide
theorem init : Statement .init := by unfold Statement; decide
theorem absorb : Statement .absorb := by unfold Statement; decide
theorem absorbLast (len : BitVec 6) : Statement (.absorbLast len) := by
  revert len; unfold Statement; decide
theorem permute : Statement .permute := by unfold Statement; decide
theorem squeeze : Statement .squeeze := by unfold Statement; decide
theorem wrs (d : Index) : Statement (.wrs d) := by
  refine of_bits _ _ _ fun k hk => ?_
  interval_cases k <;>
    simp only [encode, assembleFields, BitVec.getLsbD_append] <;> simp
theorem rds (a : Index) : Statement (.rds a) := by
  refine of_bits _ _ _ fun k hk => ?_
  interval_cases k <;>
    simp only [encode, assembleFields, BitVec.getLsbD_append] <;> simp
theorem modadd (d a b : Index) : Statement (.modadd d a b) := by
  refine of_bits _ _ _ fun k hk => ?_
  interval_cases k <;>
    simp only [encode, assembleFields, BitVec.getLsbD_append] <;> simp
theorem modmul (d a b : Index) : Statement (.modmul d a b) := by
  refine of_bits _ _ _ fun k hk => ?_
  interval_cases k <;>
    simp only [encode, assembleFields, BitVec.getLsbD_append] <;> simp
theorem modpow (d a : Index) : Statement (.modpow d a) := by
  refine of_bits _ _ _ fun k hk => ?_
  interval_cases k <;>
    simp only [encode, assembleFields, BitVec.getLsbD_append] <;> simp

end Sys2Proof.Laws.RowMatch
end

