-- ==== Sys2Proof/Tests/Slice0.lean ====
section
/-! SUPPORT. Tests: the checks refuse ill-formed terms, words written out bit by bit, one step per command with values of
95_test_vectors.md, and a state or operands that meet the hypotheses of each statement. -/

namespace Sys2Proof.Tests

open Sys2Proof Sys2Proof.Machine

-- One theorem at a time: kernel evaluations side by side take a thread each.
set_option Elab.async false

/-! ## The checks of WellFormed.lean, one ill-formed term each -/

/-- T passes every check. -/
theorem test_params_T_accepted : (Config.ofParams Params.testT).isSome = true := by
  rw [Config.ofParams, dif_pos ⟨Params.testT_wellFormed, .inl rfl⟩]; rfl

/-- R11: `P < 2^1023`. -/
theorem test_refuse_p_small : { Params.testT with p := 2 ^ 1023 - 1 }.wellFormed = false := by decide +kernel

/-- R11: `P >= 2^1024`. -/
theorem test_refuse_p_large : { Params.testT with p := 2 ^ 1024 }.wellFormed = false := by decide +kernel

/-- R12: `IV[511] = P`. -/
theorem test_refuse_iv_entry : { Params.testT with
    iv := Params.testT.iv.set 511 (BitVec.ofNat 1024 (2 ^ 1024 - 105)) }.wellFormed = false := by decide +kernel

/-- R13: `RC[15][0] = P`. -/
theorem test_refuse_rc_entry : { Params.testT with
    rc := Params.testT.rc.set 15 (Params.testT.rc[15].set 0 (BitVec.ofNat 1024 (2 ^ 1024 - 105))) }.wellFormed
    = false := by decide +kernel

/-- R13: two equal sets of round constants. -/
theorem test_refuse_rc_equal : { Params.testT with rc := Params.testT.rc.set 15 Params.testT.rc[3] }.wellFormed
    = false := by decide +kernel

/-- R14: `E = 1`. -/
theorem test_refuse_e_small : { Params.testT with e := 1 }.wellFormed = false := by decide +kernel

/-- R14: `E = 2^32`. -/
theorem test_refuse_e_large : { Params.testT with e := 2 ^ 32 }.wellFormed = false := by decide +kernel

/-- D13: BASE inside a window. -/
theorem test_refuse_base : { Params.testT with base := 4 }.wellFormed = false := by decide +kernel

/-- R16: the type `Config` refuses what the check refuses. -/
theorem test_config_refused : Config.ofParams { Params.testT with e := 1 } = none := by
  rw [Config.ofParams, dif_neg (by rw [test_refuse_e_small]; rintro ⟨h, -⟩; cases h)]

/-- R11, R16, I8: a modulus in range that is no prime, the even number `P_T - 1`. -/
theorem test_refuse_composite : Config.ofParams { Params.testT with p := 2 ^ 1024 - 106 } = none := by
  rw [Config.ofParams, dif_neg]
  rintro ⟨-, h | h⟩
  · revert h
    decide +kernel
  · have h2 : (2 : Nat) = 2 ^ 1024 - 106 := (Nat.prime_dvd_prime_iff_eq Nat.prime_two h).1 (by decide +kernel)
    revert h2
    decide +kernel

/-- R120: an index of 512. -/
theorem test_refuse_index : assemble (.modadd 0 512 0) = none ∧ (AsmLine.wrs 512).wellFormed = false ∧
    (AsmLine.movs 0 512).wellFormed = false := by decide

/-- R120: a LEN of 64. -/
theorem test_refuse_len : assemble (.absorbLast 64) = none := by decide

/-- R121: the pseudo-instructions. -/
theorem test_pseudo : assemble (.movs 1 2) = some [.rds 2, .wrs 1] ∧ assemble (.modsqr 7 7) = some [.modmul 7 7 7] ∧
    assemble (.moddbl 7 6) = some [.modadd 7 6 6] ∧ assemble .absorbEmptyLast = some [.absorbLast 0] := by decide

/-! ## Decoding: words written from the formats of R112 and the opcodes of R115 -/

theorem test_decode_nop : decode 0b00000_000000000_000000000_000000000 = .ok .nop := by decide
theorem test_decode_init : decode 0b00001_000000000_000000000_000000000 = .ok .init := by decide
theorem test_decode_absorb : decode 0b00010_000000000_000000000_000000000 = .ok .absorb := by decide
theorem test_decode_absorb_last : decode 0b00011_000000000_000000000_000_100101 = .ok (.absorbLast 37) := by decide
theorem test_decode_permute : decode 0b00100_000000000_000000000_000000000 = .ok .permute := by decide
theorem test_decode_squeeze : decode 0b00101_000000000_000000000_000000000 = .ok .squeeze := by decide
theorem test_decode_wrs : decode 0b01000_100000001_000000000_000000000 = .ok (.wrs 257) := by decide
theorem test_decode_rds : decode 0b01001_000000000_100000001_000000000 = .ok (.rds 257) := by decide
theorem test_decode_modadd : decode 0b01010_100000000_010000001_000000011 = .ok (.modadd 256 129 3) := by decide
theorem test_decode_modmul : decode 0b01011_100000000_010000001_000000011 = .ok (.modmul 256 129 3) := by decide
theorem test_decode_modpow : decode 0b01100_100000000_010000001_000000000 = .ok (.modpow 256 129) := by decide

/-- The legal words of the table of 95_test_vectors.md section 2.3 with an operand at its last value. -/
theorem test_decode_last_values : decode 0x1800003F = .ok (.absorbLast 63) ∧ decode 0x47FC0000 = .ok (.wrs 511) ∧
    decode 0x4803FE00 = .ok (.rds 511) ∧ decode 0x57FFFFFF = .ok (.modadd 511 511 511) ∧
    decode 0x5FFFFFFF = .ok (.modmul 511 511 511) ∧ decode 0x67FFFE00 = .ok (.modpow 511 511) := by decide

/-- The illegal words of the same table, by the reason of R116 or R117. -/
theorem test_decode_illegal :
    ([0x00000001, 0x08040000, 0x18000040, 0x28000001, 0x40140001, 0x48000A01, 0x48040A00, 0x60100601] : List Word).map
      decode = List.replicate 8 (.error .reservedField) ∧
    ([0x30000000, 0x38000000, 0x68000000, 0xF8000000, 0xFFFFFFFF] : List Word).map decode =
      List.replicate 5 (.error .reservedOpcode) := by decide

/-- The host's question of the table: the row's word gives the row's command. -/
theorem test_decode_table_word : decodeTableWord 32 0x50000000 = some (.modadd 0 0 0) := by decide

/-! ## One step of each command (values of 95_test_vectors.md sections 2.1 to 2.8, under test instance T) -/

/-- After reset with the clear done (70_reset_and_hazards.md R254), under T. -/
def idle : State := { State.reset with clearing := false, busy := false }

/-- The same in another phase. -/
def inPhase (ph : Phase) : State := { idle with phase := ph }

/-- `P_T` and `P_T - 1` as register contents. -/
def pT : Residue := BitVec.ofNat 1024 (2 ^ 1024 - 105)

/-- A predicate of the state after one step. -/
def afterStep (s : State) (f : State → Bool) : Bool :=
  match step s with
  | .next t => f t
  | .fault _ => false
  | .refused _ => false

/-- One step that executes the command word `w` on `s`. -/
def ran (w : Word) (s : State) (f : State → Bool) : Bool := afterStep (s.placeCommand w) f

/-- V-MC-1. -/
theorem test_modadd_wraps : ran 0x500C0202 ((idle.writeS 1 (pT - 1)).writeS 2 1)
    (fun t => t.readS 3 == 0 && t.readS 1 == pT - 1 && t.doneP && t.statusWord == 0) = true := by decide +kernel

/-- V-MC-4. -/
theorem test_modadd_in_place : ran 0x57FFFFFF (idle.writeS 511 (BitVec.ofNat 1024 (2 ^ 1023)))
    (fun t => t.readS 511 == 105) = true := by decide +kernel

/-- V-MC-2. -/
theorem test_modmul_minus_one : ran 0x580C0202 ((idle.writeS 1 (pT - 1)).writeS 2 (pT - 1))
    (fun t => t.readS 3 == 1) = true := by decide +kernel

/-- V-MC-3. -/
theorem test_modmul_in_place : ran 0x581C0E07 (idle.writeS 7 (BitVec.ofNat 1024 (2 ^ 512)))
    (fun t => t.readS 7 == 105) = true := by decide +kernel

/-- V-MC-5, and V-MP-5: `2^147` to the 7th is 3360. -/
theorem test_modpow : ran 0x60100600 (idle.writeS 3 2) (fun t => t.readS 4 == 128) = true ∧
    ran 0x60100600 (idle.writeS 3 (BitVec.ofNat 1024 (2 ^ 147))) (fun t => t.readS 4 == 3360) = true := by
  decide +kernel

/-- V-MC-6. -/
theorem test_modpow_reserved_bit : ran 0x60100601 (idle.writeS 3 2)
    (fun t => t.readS 4 == 0 && t.statusWord == 0x102 && t.errcmd == 0x60100601 && !t.doneP) = true := by
  decide +kernel

/-- V-TR-2. -/
theorem test_wrs_largest : ran 0x40000000 { idle with x := pT - 1 }
    (fun t => t.readS 0 == pT - 1 && t.x == pT - 1 && t.doneP) = true := by decide +kernel

/-- V-TR-3. -/
theorem test_wrs_range : ran 0x40140000 { idle with x := pT } (fun t => t.statusWord == 0x202 && t.errcmd == 0x40140000
    && t.irqStatusWord == 2 && t.readS 5 == 0) = true := by decide +kernel

/-- V-TR-5. -/
theorem test_rds : ran 0x48000A00 (idle.writeS 5 0x1234)
    (fun t => windowWord t.x 31 == 0x1234 && windowWord t.x 0 == 0) = true := by decide +kernel

/-- V-AB-1. -/
theorem test_init : ran 0x08000000 { idle with dg := 5, blkcnt := 9, phase := .final } (fun t => t.readS 511 == 511
    && t.blkcnt == 0 && t.dg == 0 && t.statusWord == 4) = true := by decide +kernel

/-- V-AB-2: what is added before the permutation, and what the command leaves beside S. -/
theorem test_absorb : ((addBlock Config.testT.p Config.testT.iv (Vector.replicate 64 0x61))[7]).toNat =
      0x6161616161616168 ∧
    ran 0x10000000 { inPhase .absorbing with S := Config.testT.iv, bb := Vector.replicate 64 0x61 }
      (fun t => t.blkcnt == 1 && t.statusWord == 4 && t.doneP) = true := by decide +kernel

/-- V-ERR-6. -/
theorem test_absorb_too_large : ran 0x10000000 { inPhase .absorbing with blkcnt := blkcntMax }
    (fun t => t.statusWord == 0x406 && t.errcmd == 0x10000000 && t.blkcnt == blkcntMax) = true := by decide +kernel

/-- The block buffer of V-AB-5: `"abc"` and bytes behind it that LEN = 3 ignores. -/
def abcBuffer : Vector Byte 64 := (((Vector.replicate 64 0xEE).set 0 0x61).set 1 0x62).set 2 0x63

/-- V-AB-5, V-AB-3: `S[0]` and `S[1]` before the permutation, and what the command leaves beside S. -/
theorem test_absorb_last :
    ((addBlock Config.testT.p Config.testT.iv (lastBlock abcBuffer 3))[0]).toNat = 0x6162638000000000 ∧
    ((addBlock Config.testT.p Config.testT.iv (lastBlock abcBuffer 3))[1]).toNat = 1 ∧
    ran 0x18000003 { inPhase .absorbing with S := Config.testT.iv, bb := abcBuffer }
      (fun t => t.blkcnt == 1 && t.statusWord == 8 && t.doneP) = true := by decide +kernel

/-- V-ERR-7: SEQUENCE wins over INPUT_TOO_LARGE. -/
theorem test_absorb_last_sequence : ran 0x18000000 { inPhase .final with blkcnt := blkcntMax }
    (fun t => t.statusWord == 0x30A && t.blkcnt == blkcntMax) = true := by decide +kernel

/-- V-PM-1: one round of the zero state. -/
theorem test_round_zero : ((round Config.testT idle.S 0)[0]).toNat = 1 ∧ ((round Config.testT idle.S 0)[1]).toNat = 128 ∧
    ((round Config.testT idle.S 0)[511]).toNat = 2 ^ 63 := by decide +kernel

/-- PERMUTE in UNINIT (R196: accepted in every phase) completes with RNDCTR 0 (R191). -/
theorem test_permute : ran 0x20000000 idle (fun t => t.rndctr == 0 && t.doneP && t.statusWord == 0) = true := by
  decide +kernel

/-- SQUEEZE copies `S[0]` (R210). -/
theorem test_squeeze : ran 0x28000000 ((inPhase .final).writeS 0 0x77)
    (fun t => t.dg == 0x77 && t.readS 0 == 0x77 && t.statusWord == 8) = true := by decide +kernel

/-- V-ERR-2. -/
theorem test_squeeze_sequence : ran 0x28000000 (inPhase .absorbing)
    (fun t => t.statusWord == 0x306 && t.errcmd == 0x28000000) = true := by decide +kernel

/-- V-RST-8. -/
theorem test_nop : ran 0x00000000 idle (fun t => t.irqStatusWord == 1 && !t.irq && t.statusWord == 0) = true := by
  decide +kernel

/-- V-RST-1, and the end of the clear. -/
theorem test_reset_clear : State.reset.statusWord = 1 ∧
    afterStep State.reset (fun t => t.statusWord == 0 && t.irqStatusWord == 0) = true := by decide +kernel

/-- V-ERR-9: BUSY_VIOLATION while a NOP is in flight, which then completes and sets DONE_P. -/
theorem test_busy_violation :
    afterStep { idle.accept 0 with events := [memWrite 0x010 0x08000000] }
      (fun t => t.statusWord == 0x503 && t.errcmd == 0x08000000 && afterStep t fun u => u.statusWord == 0x502 && u.doneP)
      = true := by decide +kernel

/-- V-PAD-6: chunk `c_1` of `"hello world"`. -/
theorem test_pad_chunk : ((padBlocks [0x68, 0x65, 0x6c, 0x6c, 0x6f, 0x20, 0x77, 0x6f, 0x72, 0x6c, 0x64]).map
    fun b => blockChunk (2 ^ 1024 - 105) b 1) = [0x726c648000000000] := by decide +kernel

/-- V-RST-10, in the platform's addresses: the last byte offset of the window and the first one past it. -/
theorem test_window_offset : windowOffset Config.testT 0xFFF = some 0xFFF ∧ windowOffset Config.testT 0x1000 = none := by
  decide +kernel

/-- `WRX 3` and then `RDX` return 3 (R122; program P1 loads 3 so). -/
theorem test_wrx_rdx : (match andThen (idle.wrx 3) State.rdx with
    | .next r => r.1 == 3 && windowWord r.2.x 31 == 3 && windowWord r.2.x 0 == 0
    | .fault _ => false
    | .refused _ => false) = true := by decide +kernel

/-- `ISSUE NOP; POLL` with two reads of STATUS that show BUSY = 1 before the completion (R122). -/
theorem test_poll : (match idle.line .nop [false, false, true, false] with
    | .next t => t.doneP && !t.readBusy && t.reply == .data 0
    | .fault _ => false
    | .refused _ => false) = true := by decide +kernel

/-! ## Witnesses: the hypotheses of every statement that has some can be met -/

/-- Every element of the idle state is 0. -/
theorem idle_element (i : Nat) (h : i < 512) : (idle.S[i]'h).toNat < idle.cfg.p := by
  have e : idle.S[i]'h = 0 := by
    show (Vector.replicate 512 (0 : Residue))[i]'h = 0
    rw [Vector.getElem_replicate]
  rw [e]
  exact idle.cfg.zero_below

theorem idle_residues (f : State → State) (hS : (f idle).S = idle.S) (hc : (f idle).cfg = idle.cfg) :
    (f idle).ResiduesBelow := by
  rw [State.residuesBelow_iff, hS, hc]
  exact idle_element

theorem witness_EncodeDecode : decode 0x18000025 = .ok (.absorbLast 37) := by decide

theorem witness_IllegalWordRaisesIllegalCommand :
    (∀ w ∈ ([0x30000000, 0x38000000, 0x68000000, 0xF8000000, 0x00000001] : List Word),
      (idle.accept w).clearing = false ∧ (idle.accept w).inflight = some w ∧ (idle.accept w).err = false) ∧
    ((0x30000000 : Word) >>> 27).toNat = 0x06 ∧ ((0x38000000 : Word) >>> 27).toNat = 0x07 ∧
    0x0D ≤ ((0x68000000 : Word) >>> 27).toNat ∧ 0x0D ≤ ((0xF8000000 : Word) >>> 27).toNat ∧
    (∀ row ∈ opcodeMap, (0x00000001 : Word) &&& row.mask ≠ row.pattern) :=
  ⟨fun _ _ => ⟨rfl, rfl, rfl⟩, by decide⟩

theorem witness_DecodeFollowsOpcodeMap : decode 0x1800003F = .ok (.absorbLast 63) ∧
    opcodeRow (.absorbLast 0) ∈ opcodeMap ∧
    (0x1800003F : Word) &&& (opcodeRow (.absorbLast 0)).mask = (opcodeRow (.absorbLast 0)).pattern := by decide

/-- With DONE_P set before, without an error, and with the first error. -/
theorem witness_EveryCommandCompletes : { idle with doneP := true }.doneP = true ∧ idle.err = false ∧
    ran 0x00000000 idle (fun t => !t.err) = true ∧ ran 0x28000000 idle (fun t => t.err) = true := by decide +kernel

theorem witness_InternalIsNeverRaised : idle.ResiduesBelow ∧ idle.errcode ≠ .internal ∧ ∃ t, step idle = .next t :=
  ⟨idle_residues id rfl rfl, by decide, _, rfl⟩

theorem witness_AssembledWordValue : (511 < 512 ∧ ¬ 512 < 512) ∧ (63 < 64 ∧ ¬ 64 < 64) := by decide

theorem witness_StepRunsDecodedCommand :
    (idle.placeCommand 0).clearing = false ∧ (idle.placeCommand 0).inflight = some 0 ∧ decode 0 = .ok .nop ∧
    (idle.placeCommand 0).events = .core :: [] ∧ (idle.accept 0).clearing = false ∧
    (idle.accept 0).inflight = some 0 ∧ (idle.accept 0).events = [] := by decide +kernel

theorem witness_StepKeepsSound : idle.Sound ∧ step idle = .next idle := by
  refine ⟨?_, rfl⟩
  refine ⟨idle_residues id rfl rfl, rfl, (fun h => nomatch h), rfl, ⟨fun _ => rfl, fun _ => rfl⟩, fun _ => rfl,
    (fun h => nomatch h), fun _ => rfl, ?_, fun _ => rfl, (fun h => nomatch h)⟩
  show (0 : Residue).toNat < (2 ^ 1024 - 105 : Nat)
  decide +kernel

theorem witness_ReachableResiduesBelowModulus : ∃ t,
    Host.Core.run Sys2Proof.core 1 { State.resetWith Config.testT with events := [.resetPin] } = .next t :=
  ⟨_, rfl⟩

theorem witness_OnlyResetLeavesHalt :
    { idle with err := true }.err = true ∧
    (∀ e rest, { idle with err := true }.events = e :: rest → e.isReset = false) ∧
    ∃ t, step { idle with err := true } = .next t :=
  ⟨rfl, (fun _ _ h => nomatch h), _, rfl⟩

theorem witness_ConfigurationIsReadOnly : ∃ t, step State.reset = .next t := ⟨_, rfl⟩

/-- A state whose digest is 1, which SQUEEZE (of a zero `S[0]`), INIT and reset change. -/
def withDigest : State := { inPhase .final with dg := 1, blkcnt := 1 }

theorem witness_DigestChangesOnlyBySqueezeInitReset :
    ran 0x28000000 withDigest (fun t => t.dg != withDigest.dg) = true ∧
    ran 0x08000000 withDigest (fun t => t.dg != withDigest.dg) = true ∧
    afterStep { withDigest with events := [.resetPin] } (fun t => t.dg != withDigest.dg) = true := by decide +kernel

/-- A step that leaves BLKCNT (NOP; an absorb at `2^64 - 1`), adds 1 (ABSORB up to `2^64 - 1`, ABSORB_LAST), and sets it to 0
(INIT, a reset). -/
theorem witness_BlockCounterNeverWraps :
    ran 0x00000000 withDigest (fun t => t.blkcnt == 1) = true ∧
    ran 0x10000000 { inPhase .absorbing with blkcnt := blkcntMax } (fun t => t.blkcnt == blkcntMax) = true ∧
    ran 0x18000000 { inPhase .absorbing with blkcnt := blkcntMax } (fun t => t.blkcnt == blkcntMax) = true ∧
    ran 0x10000000 { inPhase .absorbing with blkcnt := blkcntMax - 1 } (fun t => t.blkcnt == blkcntMax) = true ∧
    ran 0x18000000 (inPhase .absorbing) (fun t => t.blkcnt == 1) = true ∧
    ran 0x08000000 withDigest (fun t => t.blkcnt == 0) = true ∧
    afterStep { withDigest with events := [.resetPin] } (fun t => t.blkcnt == 0) = true := by decide +kernel

theorem witness_PhaseTransitions :
    afterStep { withDigest with events := [.resetPin] } (fun t => t.phase != withDigest.phase) = true ∧
    ran 0x08000000 withDigest (fun t => t.phase != withDigest.phase) = true ∧
    ran 0x18000000 (inPhase .absorbing) (fun t => t.phase != Phase.absorbing) = true := by decide +kernel

theorem witness_ResetValues : ({ idle with events := [.resetPin] } : State).events = .resetPin :: [] ∧
    Event.isReset .resetPin = true ∧ Event.isReset (.bus (.write 0x008 4 1)) = true ∧
    Event.isReset (.bus (.write 0x008 4 0xFFFFFFFF)) = true := by decide +kernel

theorem witness_SoftResetAndClear : (1 : Word).getLsbD 0 = true ∧ (∃ t, idle.take .resetPin = .next t) ∧
    (∃ u, idle.take (.bus (.write 0x008 4 1)) = .next u) ∧ State.reset.clearing = true :=
  ⟨by decide, ⟨_, rfl⟩, ⟨_, rfl⟩, rfl⟩

theorem witness_BusErrorChangesNothing : (2 ≠ 4 ∨ (0x000 : BitVec 12).toNat % 4 ≠ 0) ∧
    (4 ≠ 4 ∨ (0xFFF : BitVec 12).toNat % 4 ≠ 0) := by decide

theorem witness_ReadHasNoSideEffect : idle.busy = false := rfl

theorem witness_CommandIssue : { idle with err := true }.err = true ∧
    (State.reset.err = false ∧ State.reset.busy = true) ∧ (idle.err = false ∧ idle.busy = false) := by decide

theorem witness_DataWriteWhileBusy :
    (([0x080, 0x0FC, 0x100, 0x13C] : List (BitVec 12)).all fun off =>
      decide (off.toNat % 4 = 0 ∧ 0x080 ≤ off.toNat ∧ off.toNat < 0x140)) = true ∧
    (State.reset.busy = true ∧ State.reset.err = false) ∧
    ({ State.reset with err := true }.busy = true ∧ { State.reset with err := true }.err = true) := by decide

theorem witness_OperandsFrozenWhileBusy : (idle.accept 0).busy = true ∧
    Event.isReset (.bus (.write 0x080 4 5)) = false ∧ Event.isReset (.bus (.write 0x008 4 2)) = false := by decide

theorem witness_HostCannotAddressS : Event.isReset (.bus (.write 0x008 4 2)) = false ∧
    Event.isReset (.bus (.read 0x080 4)) = false := by decide

theorem witness_XWindowReadsWhatWasWritten : 0 < 32 ∧ 31 < 32 ∧ idle.busy = false := by decide

theorem witness_BlockBufferWindow : 0 < 16 ∧ 15 < 16 ∧ idle.busy = false := by decide

theorem witness_DigestWindow : 0 < 128 ∧ 127 < 128 ∧ idle.busy = false := by decide

theorem witness_ControlRegister : (2 : Word).getLsbD 0 = false := by decide

theorem witness_ReadOnlyRegisters : idle.busy = false := rfl

theorem witness_ReservedAndReadOnlyOffsets :
    (([0x024, 0x07C, 0x140, 0x17C, 0x200, 0xFFC] : List (BitVec 12)).all fun off => decide (off.toNat % 4 = 0 ∧
      ((0x024 ≤ off.toNat ∧ off.toNat ≤ 0x07C) ∨ (0x140 ≤ off.toNat ∧ off.toNat ≤ 0x17C) ∨ 0x200 ≤ off.toNat))) = true ∧
    (([0x000, 0x004, 0x00C, 0x018, 0x01C, 0x020] : List (BitVec 12)).all fun off => decide (off.toNat % 4 = 0)) = true := by
  decide

theorem witness_ModPowRecursion : 0 < 2 ∧ 1 ≤ 1 ∧ 2 ≤ 2 := by decide

theorem witness_ModularLaws : 0 < 2 ∧ 1 < 2 ∧ 2 ≤ 2 := by decide

/-- The sources of MODADD, MODMUL and MODPOW: two residues whose sum is below P, and two whose sum is not. -/
theorem witness_ModaddResult : (idle.readS 1).toNat < idle.cfg.p ∧ (idle.readS 2).toNat < idle.cfg.p ∧
    (idle.readS 1).toNat + (idle.readS 2).toNat < idle.cfg.p ∧
    ((idle.writeS 1 (pT - 1)).readS 1).toNat < (idle.writeS 1 (pT - 1)).cfg.p ∧
    ¬ ((idle.writeS 1 (pT - 1)).readS 1).toNat + ((idle.writeS 1 (pT - 1)).readS 1).toNat < idle.cfg.p := by
  decide +kernel

theorem witness_ModmulResult : (idle.readS 1).toNat < idle.cfg.p ∧ (idle.readS 2).toNat < idle.cfg.p := by
  decide +kernel

theorem witness_ModpowResult : (idle.readS 3).toNat < idle.cfg.p := by decide +kernel

theorem witness_WrsResult : { idle with x := pT - 1 }.x.toNat < idle.cfg.p ∧
    idle.cfg.p ≤ { idle with x := pT }.x.toNat ∧ { idle with x := pT }.err = false := by decide +kernel

theorem witness_AbsorbBlockMeaning : (∀ (i : Nat) (h : i < 512), (idle.S[i]'h).toNat < Config.testT.p) ∧
    (0 < 8 ∧ 7 < 8) ∧ (8 ≤ 8 ∧ 8 ≤ 511) := ⟨idle_element, by decide⟩

theorem witness_AbsorbResult : (inPhase .absorbing).ResiduesBelow ∧ (inPhase .absorbing).phase = .absorbing ∧
    (inPhase .absorbing).blkcnt.toNat ≠ 2 ^ 64 - 1 :=
  ⟨idle_residues (fun s => { s with phase := .absorbing }) rfl rfl, rfl, by decide⟩

/-- The last count that still has room. -/
theorem witness_AbsorbLastResult : { inPhase .absorbing with blkcnt := blkcntMax - 1 }.ResiduesBelow ∧
    { inPhase .absorbing with blkcnt := blkcntMax - 1 }.phase = .absorbing ∧
    { inPhase .absorbing with blkcnt := blkcntMax - 1 }.blkcnt.toNat ≠ 2 ^ 64 - 1 :=
  ⟨idle_residues (fun s => { s with phase := .absorbing, blkcnt := blkcntMax - 1 }) rfl rfl, rfl, by decide⟩

theorem witness_PadIsInjective : pad [0x61] = pad [0x61] := rfl

theorem witness_HostSplitIsPadding : ∀ (j : Nat) (h : j < 64), j < ([0x61] : List Byte).length % 64 →
    ([0x61] : List Byte)[64 * (([0x61] : List Byte).length / 64) + j]? =
      some ((Vector.replicate 64 (0x61 : Byte))[j]'h) := by decide

theorem witness_RoundMeaning : 0 < 512 ∧ 511 < 512 := by decide

theorem witness_PermuteResult : idle.ResiduesBelow := idle_residues id rfl rfl

theorem witness_SqueezeResult : (inPhase .final).phase = .final := rfl

theorem witness_BigEndianConversions : 2 < (beBytes 3 5).length ∧ 255 < 256 ^ 1 := by decide

theorem witness_InitForgetsThePast :
    (∃ s' t', idle.cfg = { idle with x := 1 }.cfg ∧ exec .init idle = .next s' ∧ exec .init { idle with x := 1 } = .next t') ∧
    (∀ i ∈ ([.absorb, .absorbLast 0, .squeeze] : List Instr),
      ∃ s' t', exec i (inPhase .absorbing) = .next s' ∧ exec i { inPhase .absorbing with x := 1 } = .next t') ∧
    (inPhase .absorbing).ResiduesBelow ∧ (inPhase .absorbing).bb = { inPhase .absorbing with x := 1 }.bb ∧
    (inPhase .absorbing).S = { inPhase .absorbing with x := 1 }.S ∧
    (inPhase .absorbing).dg = { inPhase .absorbing with x := 1 }.dg ∧
    (inPhase .absorbing).blkcnt = { inPhase .absorbing with x := 1 }.blkcnt ∧
    (inPhase .absorbing).phase = { inPhase .absorbing with x := 1 }.phase := by
  refine ⟨?_, ?_, witness_AbsorbResult.1, rfl, rfl, rfl, rfl, rfl⟩
  · obtain ⟨s', hs⟩ := exec_answers_next .init idle
    obtain ⟨t', ht⟩ := exec_answers_next .init { idle with x := 1 }
    exact ⟨s', t', rfl, hs, ht⟩
  · intro i _
    obtain ⟨s', hs⟩ := exec_answers_next i (inPhase .absorbing)
    obtain ⟨t', ht⟩ := exec_answers_next i { inPhase .absorbing with x := 1 }
    exact ⟨s', t', hs, ht⟩

theorem witness_DigestProcedureComputesDigest : idle.clearing = false ∧ idle.inflight = none ∧ idle.busy = false ∧
    idle.err = false ∧ ([] : List Byte).length / 64 + 1 ≤ 2 ^ 64 - 1 ∧
    (List.replicate 65 (0x61 : Byte)).length / 64 + 1 ≤ 2 ^ 64 - 1 := by decide

theorem witness_SequenceError : idle.err = false ∧ idle.phase ≠ .absorbing ∧ (inPhase .final).err = false ∧
    (inPhase .final).phase ≠ .absorbing ∧ idle.phase ≠ .final ∧ (inPhase .absorbing).phase ≠ .final := by decide

theorem witness_InputTooLargeError : { inPhase .absorbing with blkcnt := blkcntMax }.err = false ∧
    { inPhase .absorbing with blkcnt := blkcntMax }.phase = .absorbing ∧
    { inPhase .absorbing with blkcnt := blkcntMax }.blkcnt.toNat = 2 ^ 64 - 1 := by decide

/-- `S[0] = P`, the least value that is no residue. -/
theorem witness_InternalError : ((inPhase .absorbing).writeS 0 pT).err = false ∧
    ((inPhase .absorbing).writeS 0 pT).cfg.p ≤ (((inPhase .absorbing).writeS 0 pT).readS 0).toNat ∧
    ((inPhase .absorbing).writeS 0 pT).phase = .absorbing ∧
    ((inPhase .absorbing).writeS 0 pT).blkcnt.toNat ≠ 2 ^ 64 - 1 := by decide +kernel

/-- Halted, with an illegal word in flight, `X = P` and `S[0] = P`, in UNINIT, and in ABSORBING with a full count and with an
empty one. -/
def halted (ph : Phase) (n : BitVec 64) : State :=
  { (idle.accept 0x30000000).writeS 0 pT with err := true, x := pT, phase := ph, blkcnt := n }

theorem witness_ErrorWhileHaltedOnlyCompletes :
    ((halted .uninit 0).err = true ∧ (halted .uninit 0).cfg.p ≤ (halted .uninit 0).x.toNat ∧
      (halted .uninit 0).phase ≠ .final ∧ (halted .uninit 0).phase ≠ .absorbing ∧
      (halted .uninit 0).cfg.p ≤ ((halted .uninit 0).readS 0).toNat ∧
      (halted .uninit 0).clearing = false ∧ (halted .uninit 0).inflight = some 0x30000000 ∧
      decode 0x30000000 = .error .reservedOpcode) ∧
    ((halted .absorbing blkcntMax).err = true ∧ (halted .absorbing blkcntMax).blkcnt.toNat = 2 ^ 64 - 1) ∧
    ((halted .absorbing (blkcntMax - 1)).phase = .absorbing ∧
      (halted .absorbing (blkcntMax - 1)).blkcnt.toNat ≠ 2 ^ 64 - 1 ∧
      (halted .absorbing (blkcntMax - 1)).cfg.p ≤ ((halted .absorbing (blkcntMax - 1)).readS 0).toNat) := by
  decide +kernel

end Sys2Proof.Tests
end

section
/-! PROOF. Big-endian conversions (R18): the bytes of `beBytes`, the weighted sum of `beVal`, and the round trip. -/

namespace Sys2Proof.Proofs.BigEndian

open Sys2Proof Sys2Proof.Machine

@[simp] theorem length_beBytes (n v : Nat) : (beBytes n v).length = n := length_upFrom _ n 0

/-- Byte `j` of `BE_n(v)` is `v[8(n-1-j)+7 : 8(n-1-j)]` (R18). -/
theorem toNat_getElem_beBytes (n v j : Nat) (h : j < (beBytes n v).length) :
    (beBytes n v)[j].toNat = (v >>> (8 * (n - 1 - j))) % 256 := by
  simp [beBytes, getElem_upFrom]

/-- The byte in front of `BE_n(v)` in `BE_(n+1)(v)` is `v[8n+7 : 8n]`. -/
theorem beBytes_succ (n v : Nat) : beBytes (n + 1) v = BitVec.ofNat 8 (v >>> (8 * n)) :: beBytes n v := by
  apply List.ext_getElem
  · simp
  · intro j hj hj'
    cases j with
    | zero => simp [beBytes, getElem_upFrom]
    | succ j =>
      have hsub : n - (j + 1) = n - 1 - j := by omega
      simp [beBytes, getElem_upFrom, hsub]

theorem beVal_cons (b : Byte) (bs : List Byte) : beVal (b :: bs) = b.toNat * 256 ^ bs.length + beVal bs := by
  simpa [beVal] using beVal_append [b] bs

/-- `BEval` is the sum of byte `j` times `256^(n-1-j)` (R18). -/
theorem beVal_eq_weighted_sum (bs : List Byte) :
    beVal bs = ((List.range bs.length).map fun j => (bs.getD j 0).toNat * 256 ^ (bs.length - 1 - j)).sum := by
  induction bs with
  | nil => rfl
  | cons b bs ih =>
    rw [beVal_cons, ih, List.length_cons, List.range_succ_eq_map]
    simp [Function.comp_def, Nat.sub_sub, Nat.add_comm 1]

/-- `BE_n` keeps the low `n` bytes of a number: without the bound of R18, `BEval` gives back its remainder. -/
theorem beVal_beBytes (n v : Nat) : beVal (beBytes n v) = v % 256 ^ n := by
  induction n with
  | zero => simp [beBytes, upFrom, beVal, Nat.mod_one]
  | succ n ih =>
    have hshift : v >>> (8 * n) = v / 256 ^ n := by
      rw [Nat.shiftRight_eq_div_pow, pow_mul, show 2 ^ 8 = 256 from rfl]
    calc beVal (beBytes (n + 1) v)
        = v / 256 ^ n % 256 * 256 ^ n + v % 256 ^ n := by
          rw [beBytes_succ, beVal_cons, ih, length_beBytes, hshift, BitVec.toNat_ofNat]
      _ = v % 256 ^ (n + 1) := by rw [Nat.mod_pow_succ]; ring

/-- Settles O53: the bytes and their weighted sum come from the two definitions, and the round trip from the remainder
that `BEval` gives back of any number. -/
theorem bigEndianConversions : Obligations.BigEndianConversions := by
  refine ⟨fun n v => ⟨length_beBytes n v, toNat_getElem_beBytes n v⟩, beVal_eq_weighted_sum, fun n v hv => ?_⟩
  rw [beVal_beBytes, Nat.mod_eq_of_lt hv]

end Sys2Proof.Proofs.BigEndian
end

section
/-! PROOF. What a command and a step can do, said once: the effects of the commands, the outcomes of `exec`, and the
kinds of steps. -/

namespace Sys2Proof.Proofs.StepOutcomes

open Sys2Proof Sys2Proof.Machine

/-- What a command that raises no error writes before its completion, with the checks it has passed (R145 to R147, R160,
R161, R170, R175, R176, R196, R210, R212). -/
inductive Effect (s : State) : Instr → State → Prop
  | nop : Effect s .nop s
  | init : Effect s .init { s with S := s.cfg.iv, blkcnt := 0, dg := 0, phase := .absorbing }
  | absorb (hphase : s.phase = .absorbing) (hroom : s.blkcnt ≠ blkcntMax) (hres : s.ResiduesBelow) :
      Effect s .absorb
        { s with S := absorbBlock s.cfg s.S s.bb, rndctr := 0, blkcnt := s.blkcnt + 1, phase := .absorbing }
  | absorbLast (len : BitVec 6) (hphase : s.phase = .absorbing) (hroom : s.blkcnt ≠ blkcntMax) (hres : s.ResiduesBelow) :
      Effect s (.absorbLast len)
        { s with S := absorbBlock s.cfg s.S (lastBlock s.bb len), rndctr := 0, blkcnt := s.blkcnt + 1, phase := .final }
  | permute (hres : s.ResiduesBelow) : Effect s .permute { s with S := permute s.cfg s.S, rndctr := 0 }
  | squeeze (hphase : s.phase = .final) : Effect s .squeeze { s with dg := s.readS 0 }
  | wrs (d : Index) (hx : s.x.toNat < s.cfg.p) : Effect s (.wrs d) (s.writeS d s.x)
  | rds (a : Index) : Effect s (.rds a) { s with x := s.readS a }
  | modadd (d a b : Index) (ha : (s.readS a).toNat < s.cfg.p) (hb : (s.readS b).toNat < s.cfg.p) :
      Effect s (.modadd d a b) (s.writeS d (BitVec.ofNat 1024 (modAdd s.cfg.p (s.readS a).toNat (s.readS b).toNat)))
  | modmul (d a b : Index) (ha : (s.readS a).toNat < s.cfg.p) (hb : (s.readS b).toNat < s.cfg.p) :
      Effect s (.modmul d a b) (s.writeS d (BitVec.ofNat 1024 (modMul s.cfg.p (s.readS a).toNat (s.readS b).toNat)))
  | modpow (d a : Index) (ha : (s.readS a).toNat < s.cfg.p) :
      Effect s (.modpow d a) (s.writeS d (BitVec.ofNat 1024 (modPow s.cfg.p s.cfg.e (s.readS a).toNat)))

/-- The three ways a command `i` executed in `s` ends in `t`: with its effect, with an error of its own checks, or, where
some residue is not below P, with INTERNAL. -/
inductive Ends (s : State) (i : Instr) : State → Prop
  | done {u : State} (effect : Effect s i u) : Ends s i u.finish
  | raised {code : ErrCode} (checked : code = .range ∨ code = .sequence ∨ code = .inputTooLarge) :
      Ends s i (s.raise code (encode i))
  | internal (unsound : ¬ s.ResiduesBelow) : Ends s i (s.raiseInternal (encode i))

/-- Both absorb commands: the effect is that of the command whose word is recorded. -/
theorem absorb_ends {s : State} {i : Instr} (blk : Vector Byte 64) (after : Phase)
    (effect : s.phase = .absorbing → s.blkcnt ≠ blkcntMax → s.ResiduesBelow → Effect s i
      { s with S := absorbBlock s.cfg s.S blk, rndctr := 0, blkcnt := s.blkcnt + 1, phase := after }) :
    Ends s i (s.absorb (encode i) blk after) := by
  rcases s.absorb_cases (encode i) blk after with
    ⟨-, e⟩ | ⟨-, -, e⟩ | ⟨hphase, hroom, hok, e⟩ | ⟨-, -, hok, e⟩ <;> rw [e]
  · exact .raised (by simp)
  · exact .raised (by simp)
  · exact .done (effect hphase hroom (s.permutationOk_residues.1 hok))
  · exact .internal fun h => absurd (s.permutationOk_residues.2 h) (by simp [hok])

/-- What executing a command can do. -/
theorem exec_ends (i : Instr) (s : State) : ∃ t, exec i s = .next t ∧ Ends s i t := by
  cases i with
  | nop => exact ⟨_, rfl, .done .nop⟩
  | init =>
    refine ⟨_, ?_, .done .init⟩
    simp only [exec, execInit, s.cfg.iv_below, if_true]
  | absorb => exact ⟨_, rfl, absorb_ends s.bb .absorbing .absorb⟩
  | absorbLast len => exact ⟨_, rfl, absorb_ends (lastBlock s.bb len) .final (.absorbLast len)⟩
  | permute =>
    simp only [exec, execPermute]
    split
    next hok =>
      rw [s.runPermutation_eq]
      exact ⟨_, rfl, .done (.permute (s.permutationOk_residues.1 hok))⟩
    next hok => exact ⟨_, rfl, .internal fun h => hok (s.permutationOk_residues.2 h)⟩
  | squeeze =>
    simp only [exec, execSqueeze]
    split
    next => exact ⟨_, rfl, .raised (by simp)⟩
    next hphase => exact ⟨_, rfl, .done (.squeeze (not_not.1 hphase))⟩
  | wrs d =>
    simp only [exec, execWrs]
    split
    next hx => exact ⟨_, rfl, .done (.wrs d (by simpa [operandOk] using hx))⟩
    next => exact ⟨_, rfl, .raised (by simp)⟩
  | rds a => exact ⟨_, rfl, .done (.rds a)⟩
  | modadd d a b =>
    refine ⟨_, rfl, ?_⟩
    rcases adder_cases s.cfg.p (s.readS a) (s.readS b) with ⟨ha, hb, e⟩ | ⟨hab, e⟩ <;> rw [e]
    · exact .done (.modadd d a b ha hb)
    · exact .internal fun h => hab ⟨h a, h b⟩
  | modmul d a b =>
    refine ⟨_, rfl, ?_⟩
    rcases multiplier_cases s.cfg.p (s.readS a) (s.readS b) with ⟨ha, hb, e⟩ | ⟨hab, e⟩ <;> rw [e]
    · exact .done (.modmul d a b ha hb)
    · exact .internal fun h => hab ⟨h a, h b⟩
  | modpow d a =>
    refine ⟨_, rfl, ?_⟩
    rcases exponentiator_cases s.cfg.p s.cfg.e (s.readS a) with ⟨ha, e⟩ | ⟨ha, e⟩ <;> rw [e]
    · exact .done (.modpow d a ha)
    · exact .internal fun h => ha (h a)

/-- A next state that `exec` is known to answer is one of its outcomes. -/
theorem ends_of_exec {i : Instr} {s t : State} (h : exec i s = .next t) : Ends s i t := by
  obtain ⟨u, hu, ends⟩ := exec_ends i s
  rw [hu] at h
  cases h
  exact ends

/-- The four ways the core's own move ends (R116, R117, R125, R238, R251). -/
inductive CoreEnds (s : State) : State → Prop
  | cleared (hclear : s.clearing = true) : CoreEnds s s.endClear
  | idle (hclear : s.clearing = false) (hidle : s.inflight = none) : CoreEnds s s
  | executed {i : Instr} {w : Word} {t : State} (hclear : s.clearing = false) (hflight : s.inflight = some w)
      (hdecode : decode w = .ok i) (ends : Ends s i t) : CoreEnds s t
  | illegal {w : Word} {e : Illegal} (hclear : s.clearing = false) (hflight : s.inflight = some w)
      (hdecode : decode w = .error e) : CoreEnds s (s.raise .illegalCmd w)

/-- What the core's own move can do. -/
theorem coreMove_ends {s t : State} (h : s.coreMove = .next t) : CoreEnds s t := by
  rcases s.coreMove_cases with
    ⟨hc, e⟩ | ⟨hc, hidle, e⟩ | ⟨hc, w, hw, ⟨i, hd, e⟩ | ⟨x, hd, e⟩⟩ <;> rw [e] at h
  · cases h; exact .cleared hc
  · cases h; exact .idle hc hidle
  · exact .executed hc hw hd (ends_of_exec h)
  · cases h; exact .illegal hc hw hd

/-- A reset event resets the core; only the answer of the bus port tells the pin from the write to CTRL (R250, R252). -/
theorem take_reset (s : State) {e : Event} (he : e.isReset = true) :
    ∃ r, s.take e = .next { s.toReset with reply := r } := by
  match e with
  | .resetPin => exact ⟨.idle, rfl⟩
  | .bus (.write off size v) =>
    simp only [Event.isReset, Bool.and_eq_true, beq_iff_eq] at he
    obtain ⟨⟨hok, hreg⟩, hbit⟩ := he
    refine ⟨.ack, ?_⟩
    simp only [State.take, State.access, hok, if_true, hreg, State.writeReg, State.writeCtrl, hbit]

/-- The three kinds of steps: the core's own move, a host access that is no reset, and a reset. -/
inductive StepKind (s : State) : State → Prop
  | core {t : State} (es : List Event) (hev : s.events = .core :: es ∨ (s.events = [] ∧ es = []))
      (ends : CoreEnds { s with events := es } t) : StepKind s t
  | access (a : Access) (es : List Event) (hev : s.events = .bus a :: es) (hkeep : (Event.bus a).isReset = false) :
      StepKind s ({ s with events := es }.access a)
  | reset (e : Event) (es : List Event) (r : BusReply) (hev : s.events = e :: es) (hreset : e.isReset = true) :
      StepKind s { { s with events := es }.toReset with reply := r }

/-- What a step can do. -/
theorem step_kind {s t : State} (h : step s = .next t) : StepKind s t := by
  cases hev : s.events with
  | nil =>
    rw [step_idle s hev] at h
    have hs : { s with events := [] } = s := by rw [← hev]
    exact .core [] (.inr ⟨hev, rfl⟩) (hs.symm ▸ coreMove_ends h)
  | cons e es =>
    rw [step_event s e es hev] at h
    cases hreset : e.isReset with
    | true =>
      obtain ⟨r, hr⟩ := take_reset { s with events := es } hreset
      rw [hr] at h
      cases h
      exact .reset e es r hev hreset
    | false =>
      match e with
      | .core => exact .core es (.inl hev) (coreMove_ends h)
      | .bus a => cases h; exact .access a es hev hreset

/-- What every step keeps, every run keeps. -/
theorem run_keeps {Inv : State → Prop} (hstep : ∀ s t, Inv s → step s = .next t → Inv t) (n : Nat) :
    ∀ s t : State, Inv s → Host.Core.run Sys2Proof.core n s = .next t → Inv t := by
  induction n with
  | zero => intro s t hs h; cases h; exact hs
  | succ n ih =>
    intro s t hs h
    cases hu : step s with
    | next u =>
      rw [run_succ n s u hu] at h
      exact ih u t (hstep s u hs hu) h
    | fault r => exact nomatch r
    | refused r =>
      have h' : Sys2Proof.core.step s = .refused r := hu
      simp only [Host.Core.run, h'] at h
      cases h

end Sys2Proof.Proofs.StepOutcomes
end

section
/-! PROOF. What the port answers to an access, what a write to a register can change, and the status words (R38 to R50). -/

namespace Sys2Proof.Proofs.RegisterWindow

open Sys2Proof Sys2Proof.Machine

/-- A read changes the answer of the port and at most the count of draws (R87). -/
theorem access_read_frame (s : State) (off : BitVec 12) (size : Nat) :
    ∃ r n, s.access (.read off size) = { s with reply := r, draws := n } := by
  simp only [State.access]
  split
  · rcases s.readReg_cases (regAt off) with ⟨-, -, e⟩ | ⟨-, e⟩ <;> exact ⟨_, _, e⟩
  · exact ⟨.busError, s.draws, rfl⟩

/-- A write to a register is the soft reset of CTRL, or leaves S and the configuration as they are (R23, R34, R41). -/
theorem writeReg_cases (s : State) (r : Reg) (w : Word) :
    (r = .ctrl ∧ w.getLsbD 0 = true ∧ s.writeReg r w = s.toReset) ∨
    ((s.writeReg r w).S = s.S ∧ (s.writeReg r w).cfg = s.cfg) := by
  cases r with
  | ctrl =>
    rcases s.writeCtrl_cases w with ⟨hbit, e⟩ | ⟨-, e⟩
    · exact .inl ⟨rfl, hbit, e⟩
    · right; simp [State.writeReg, e]
  | cmd => right; rcases s.issue_cases w with ⟨-, e⟩ | ⟨-, -, e⟩ | ⟨-, -, e⟩ <;> simp [State.writeReg, e]
  | xWord k =>
    right
    rcases s.guardData_cases { s with x := putWindowWord s.x k w } with ⟨-, e⟩ | ⟨-, e⟩ <;> simp [State.writeReg, e]
  | bbWord k =>
    right
    rcases s.guardData_cases { s with bb := putBbWord s.bb k w } with ⟨-, e⟩ | ⟨-, e⟩ <;> simp [State.writeReg, e]
  | irqStatus | id | param | status | blkcntLo | blkcntHi | errcmd | dgWord | reserved => exact .inr ⟨rfl, rfl⟩

@[simp] theorem writeReg_cfg (s : State) (r : Reg) (w : Word) : (s.writeReg r w).cfg = s.cfg := by
  rcases writeReg_cases s r w with ⟨-, -, e⟩ | ⟨-, hcfg⟩
  · rw [e, State.toReset_cfg]
  · exact hcfg

/-- No access writes the configuration (R34). -/
@[simp] theorem access_cfg (s : State) (a : Access) : (s.access a).cfg = s.cfg := by
  cases a with
  | read off size =>
    obtain ⟨r, n, e⟩ := access_read_frame s off size
    rw [e]
  | write off size v => simp only [State.access]; split <;> simp

/-- No access but a reset writes S (R23). -/
theorem access_S (s : State) (a : Access) (h : (Event.bus a).isReset = false) : (s.access a).S = s.S := by
  cases a with
  | read off size =>
    obtain ⟨r, n, e⟩ := access_read_frame s off size
    rw [e]
  | write off size v =>
    simp only [State.access]
    split
    next hok =>
      rcases writeReg_cases s (regAt off) v with ⟨hctrl, hbit, -⟩ | ⟨hS, -⟩
      · have hreset : (Event.bus (.write off size v)).isReset = true := by rw [Event.isReset, hok, hctrl, hbit]; rfl
        rw [hreset] at h
        cases h
      · exact hS
    next => rfl

/-- The answer to a read of a register (R87). -/
theorem readReg_reply (s : State) (r : Reg) :
    (s.readReg r).reply =
      .data (if s.busy && r.unspecifiedWhileBusy then Config.freeWord s.draws else s.regWord r) := by
  unfold State.readReg
  split <;> rfl

/-- No register shows the configuration (R34). -/
theorem regWord_cfg (s : State) (c : Config) (r : Reg) : { s with cfg := c }.regWord r = s.regWord r := by
  cases r <;> rfl

/-- No read shows the configuration (R34). -/
theorem access_read_reply_cfg (s : State) (c : Config) (off : BitVec 12) (size : Nat) :
    ({ s with cfg := c }.access (.read off size)).reply = (s.access (.read off size)).reply := by
  simp only [State.access]
  split
  · rw [readReg_reply, readReg_reply, regWord_cfg]
  · rfl

/-- A read of a register that is specified at the time answers its word and changes nothing (R87). -/
theorem access_read_specified {s : State} {off : BitVec 12} {r : Reg} (hok : accessOk off 4 = true)
    (hr : regAt off = r) (hspec : s.busy = false ∨ r.unspecifiedWhileBusy = false) :
    s.access (.read off 4) = { s with reply := .data (s.regWord r) } := by
  rw [s.access_read_reg off r hok hr]
  rcases s.readReg_cases r with ⟨hb, hu, -⟩ | ⟨-, e⟩
  · rcases hspec with h | h
    · rw [hb] at h; cases h
    · rw [hu] at h; cases h
  · exact e

/-- A write to a register that ignores it is acknowledged and changes nothing (R38, R50). -/
theorem access_write_ignored {s : State} {off : BitVec 12} {r : Reg} {w : Word} (hok : accessOk off 4 = true)
    (hr : regAt off = r) (hignore : s.writeReg r w = s) : s.access (.write off 4 w) = { s with reply := .ack } := by
  rw [s.access_write_reg off w r hok hr, hignore]

/-- A field put above the bits of a word adds its value. -/
theorem toNat_or_shiftLeft {x y : Word} {k : Nat} (hx : x.toNat < 2 ^ k) (hy : y.toNat * 2 ^ k < 2 ^ 32) :
    (x ||| y <<< k).toNat = x.toNat + 2 ^ k * y.toNat := by
  rw [BitVec.toNat_or, BitVec.toNat_shiftLeft, Nat.shiftLeft_eq, Nat.mod_eq_of_lt hy, Nat.or_comm, ← Nat.shiftLeft_eq,
    ← Nat.shiftLeft_add_eq_or_of_lt hx, Nat.shiftLeft_eq, Nat.add_comm, Nat.mul_comm]

theorem toNat_bitWord (b : Bool) : (bitWord b).toNat = if b then 1 else 0 := by cases b <;> rfl

theorem toNat_bitWord_lt (b : Bool) : (bitWord b).toNat < 2 := by cases b <;> decide

/-- PHASE fits the two bits of its field (R28). -/
theorem toNat_phaseCode_lt (p : Phase) : p.code.toNat < 4 := by cases p <;> decide

/-- ERRCODE fits the four bits of its field (R220). -/
theorem toNat_errCode_lt (c : ErrCode) : c.code.toNat < 16 := by cases c <;> decide

/-- STATUS as a number: its four fields at their places (R42). -/
theorem toNat_statusWord (s : State) :
    s.statusWord.toNat =
      (bitWord s.busy).toNat + 2 * (bitWord s.err).toNat + 4 * s.phase.code.toNat + 256 * s.errcode.code.toNat := by
  have hbusy := toNat_bitWord_lt s.busy
  have herr := toNat_bitWord_lt s.err
  have hphase := toNat_phaseCode_lt s.phase
  have hcode := toNat_errCode_lt s.errcode
  have h1 : (bitWord s.busy ||| bitWord s.err <<< 1).toNat = _ := toNat_or_shiftLeft (by omega) (by omega)
  have h2 : (bitWord s.busy ||| bitWord s.err <<< 1 ||| s.phase.code <<< 2).toNat = _ :=
    toNat_or_shiftLeft (by omega) (by omega)
  have h3 : s.statusWord.toNat = _ := toNat_or_shiftLeft (by omega) (by omega)
  omega

/-- Settles O30: the word of STATUS is `statusWord`, which is specified also while BUSY = 1. -/
theorem statusRegister : Obligations.StatusRegister := by
  intro s
  refine ⟨s.statusWord, access_read_specified (r := .status) (by decide) (by decide) (.inr rfl), ?_, fun w =>
    access_write_ignored (r := .status) (by decide) (by decide) rfl⟩
  rw [toNat_statusWord, toNat_bitWord, toNat_bitWord]
  congr 2
  · cases s.phase <;> rfl
  · cases s.errcode <;> rfl

/-- The two halves of a 64-bit count, put together again (R46). -/
theorem join_halves (n : BitVec 64) : (n.extractLsb' 32 32).toNat * 2 ^ 32 + (n.extractLsb' 0 32).toNat = n.toNat := by
  have := n.isLt
  simp only [BitVec.extractLsb'_toNat, Nat.shiftRight_eq_div_pow]
  omega

/-- Settles O33: each offset reaches its register, whose word is read as it stands. -/
theorem readOnlyRegisters : Obligations.ReadOnlyRegisters := by
  intro s
  refine ⟨access_read_specified (r := .id) (by decide) (by decide) (.inr rfl),
    access_read_specified (r := .param) (by decide) (by decide) (.inr rfl),
    access_read_specified (r := .cmd) (by decide) (by decide) (.inr rfl),
    access_read_specified (r := .errcmd) (by decide) (by decide) (.inr rfl),
    fun w => ⟨?id, ?param, ?errcmd⟩, fun hbusy => ?blkcnt⟩
  case id => exact access_write_ignored (r := .id) (by decide) (by decide) rfl
  case param => exact access_write_ignored (r := .param) (by decide) (by decide) rfl
  case errcmd => exact access_write_ignored (r := .errcmd) (by decide) (by decide) rfl
  case blkcnt =>
    exact ⟨_, _, access_read_specified (r := .blkcntLo) (by decide) (by decide) (.inl hbusy),
      access_read_specified (r := .blkcntHi) (by decide) (by decide) (.inl hbusy), join_halves s.blkcnt⟩

end Sys2Proof.Proofs.RegisterWindow
end

section
/-! PROOF. The configuration and the residue invariant along steps and runs (R22, R34), and what a reset leaves (R51). -/

namespace Sys2Proof.Proofs.StateInvariants

open Sys2Proof Sys2Proof.Machine Sys2Proof.Proofs.StepOutcomes Sys2Proof.Proofs.RegisterWindow

@[simp] theorem raiseInternal_cfg (s : State) (w : Word) : (s.raiseInternal w).cfg = s.cfg := by
  simp [State.raiseInternal]

/-- No command writes the configuration (R34). -/
theorem effect_cfg {s u : State} {i : Instr} (h : Effect s i u) : u.cfg = s.cfg := by cases h <;> rfl

theorem ends_cfg {s t : State} {i : Instr} (h : Ends s i t) : t.cfg = s.cfg := by
  cases h with
  | done effect => rw [State.finish_cfg, effect_cfg effect]
  | raised => simp
  | internal => simp

theorem coreEnds_cfg {s t : State} (h : CoreEnds s t) : t.cfg = s.cfg := by
  cases h with
  | cleared => rfl
  | idle => rfl
  | executed _ _ _ ends => exact ends_cfg ends
  | illegal => simp

theorem step_cfg {s t : State} (h : step s = .next t) : t.cfg = s.cfg := by
  cases step_kind h with
  | core es _ ends => rw [coreEnds_cfg ends]
  | access a es => simp
  | reset e es r => rfl

/-- Settles O14: each kind of step keeps the configuration, and no register's word is taken from it. -/
theorem configurationIsReadOnly : Obligations.ConfigurationIsReadOnly :=
  ⟨fun _ _ => step_cfg, access_read_reply_cfg⟩

/-- Residues stay residues where neither S nor the modulus changes. -/
theorem residuesBelow_of_eq {s t : State} (hS : t.S = s.S) (hcfg : t.cfg = s.cfg) (h : s.ResiduesBelow) :
    t.ResiduesBelow := by
  intro i
  simpa only [State.readS, hS, hcfg] using h i

/-- The cleared state register file is residues (R51). -/
theorem residuesBelow_of_clear {t : State} (hS : t.S = Vector.replicate 512 0) : t.ResiduesBelow := by
  intro i
  simpa only [State.readS, hS, Vector.getElem_replicate] using t.cfg.zero_below

/-- A residue written to `S[d]` keeps the others residues. -/
theorem residuesBelow_writeS {s : State} (d : Index) {v : Residue} (hv : v.toNat < s.cfg.p) (h : s.ResiduesBelow) :
    (s.writeS d v).ResiduesBelow := by
  intro i
  rw [State.readS_writeS]
  split
  · exact hv
  · exact h i

/-- A reduced result written to `S[d]` is a residue (R140 to R143). -/
theorem residuesBelow_writeS_mod {s : State} (d : Index) (n : Nat) (h : s.ResiduesBelow) :
    (s.writeS d (BitVec.ofNat 1024 (n % s.cfg.p))).ResiduesBelow :=
  residuesBelow_writeS d (by rw [s.cfg.toNat_ofNat_mod]; exact Nat.mod_lt _ s.cfg.p_pos) h

/-- Every command writes residues (R22). -/
theorem effect_residuesBelow {s u : State} {i : Instr} (h : Effect s i u) (hs : s.ResiduesBelow) : u.ResiduesBelow := by
  have hS := s.residuesBelow_iff.1 hs
  cases h with
  | nop => exact hs
  | init => exact (State.residuesBelow_iff _).2 ((allBelow_iff _ _).1 s.cfg.iv_below)
  | absorb => exact (State.residuesBelow_iff _).2 (absorbBlock_below s.cfg s.S s.bb hS)
  | absorbLast len => exact (State.residuesBelow_iff _).2 (absorbBlock_below s.cfg s.S (lastBlock s.bb len) hS)
  | permute => exact (State.residuesBelow_iff _).2 (permute_below s.cfg s.S hS)
  | squeeze => exact hs
  | wrs d hx => exact residuesBelow_writeS d hx hs
  | rds a => exact hs
  | modadd d a b => exact residuesBelow_writeS_mod d _ hs
  | modmul d a b => exact residuesBelow_writeS_mod d _ hs
  | modpow d a => exact residuesBelow_writeS_mod d _ hs

theorem ends_residuesBelow {s t : State} {i : Instr} (h : Ends s i t) (hs : s.ResiduesBelow) : t.ResiduesBelow := by
  cases h with
  | done effect =>
    have hu := effect_residuesBelow effect hs
    exact residuesBelow_of_eq (State.finish_S _) (State.finish_cfg _) hu
  | raised => exact residuesBelow_of_eq (by simp) (by simp) hs
  | internal unsound => exact absurd hs unsound

theorem coreEnds_residuesBelow {s t : State} (h : CoreEnds s t) (hs : s.ResiduesBelow) : t.ResiduesBelow := by
  cases h with
  | cleared => exact residuesBelow_of_clear rfl
  | idle => exact hs
  | executed _ _ _ ends => exact ends_residuesBelow ends hs
  | illegal => exact residuesBelow_of_eq (by simp) (by simp) hs

/-- The residue invariant is kept by every step (R22). -/
theorem step_residuesBelow (s t : State) (hs : s.ResiduesBelow) (h : step s = .next t) : t.ResiduesBelow := by
  cases step_kind h with
  | core es _ ends => exact coreEnds_residuesBelow ends hs
  | access a es _ hkeep => exact residuesBelow_of_eq (access_S { s with events := es } a hkeep) (access_cfg _ a) hs
  | reset e es r => exact residuesBelow_of_clear rfl

/-- Settles O12: S is 0 at reset, and every step of the run keeps the residue invariant. -/
theorem reachableResiduesBelowModulus : Obligations.ReachableResiduesBelowModulus := by
  intro c es n t hrun
  exact run_keeps step_residuesBelow n _ t (residuesBelow_of_clear rfl) hrun

/-- The core's move while the reset clear runs (R251). -/
theorem coreMove_of_clearing {s : State} (h : s.clearing = true) : s.coreMove = .next s.endClear := by
  simp only [State.coreMove, h, if_true]

/-- The end of the clear leaves every `S[i]` 0 (R33, R251). -/
@[simp] theorem endClear_readS (s : State) (i : Index) : s.endClear.readS i = 0 := by simp [State.readS]

/-- Settles O18: a reset event leads to `toReset` but for the answer of the port, and the next move is the end of the
clear. -/
theorem resetValues : Obligations.ResetValues := by
  intro s e rest hev hreset
  obtain ⟨r, htake⟩ := take_reset { s with events := rest } hreset
  refine ⟨_, _, (step_event s e rest hev).trans htake, rfl, fun j hj => ?_, rfl, rfl, rfl, rfl, rfl, rfl, rfl, rfl, rfl,
    rfl, rfl, rfl, rfl, rfl, rfl, coreMove_of_clearing rfl, endClear_readS _, rfl⟩
  simp

end Sys2Proof.Proofs.StateInvariants
end

section
/-! PROOF. The opcode map against the decoder (R115 to R117, R119): a row, a word and the decoder read field by field. -/

namespace Sys2Proof.Proofs.OpcodeMap

open Sys2Proof Sys2Proof.Machine

/-- Masking acts on the four fields of a word apart (R111). -/
theorem assembleFields_and (op op' : BitVec 5) (d a b d' a' b' : Index) :
    assembleFields op d a b &&& assembleFields op' d' a' b' =
      assembleFields (op &&& op') (d &&& d') (a &&& a') (b &&& b') := by
  have h : (op ++ d ++ a ++ b) &&& (op' ++ d' ++ a' ++ b') =
      (op &&& op') ++ (d &&& d') ++ (a &&& a') ++ (b &&& b') := by
    simp only [BitVec.and_append]
  exact h

/-- A word has one reading as fields (R111). -/
theorem assembleFields_inj {op op' : BitVec 5} {d a b d' a' b' : Index} :
    assembleFields op d a b = assembleFields op' d' a' b' ↔ op = op' ∧ d = d' ∧ a = a' ∧ b = b' := by
  constructor
  · intro h
    exact ⟨by simpa using congrArg opField h, by simpa using congrArg dField h, by simpa using congrArg aField h,
      by simpa using congrArg bField h⟩
  · rintro ⟨rfl, rfl, rfl, rfl⟩
    rfl

/-- The bits of D, A and B that a format reserves, as masks of the three fields (R112). -/
structure ReservedBits where
  d : Index
  a : Index
  b : Index

/-- The bits that the format of a command reserves (R112). -/
def reservedBits : Instr → ReservedBits
  | .nop | .init | .absorb | .permute | .squeeze => ⟨0x1FF, 0x1FF, 0x1FF⟩
  | .absorbLast _ => ⟨0x1FF, 0x1FF, 0x1C0⟩
  | .wrs _ => ⟨0, 0x1FF, 0x1FF⟩
  | .rds _ => ⟨0x1FF, 0, 0x1FF⟩
  | .modadd _ _ _ | .modmul _ _ _ => ⟨0, 0, 0⟩
  | .modpow _ _ => ⟨0, 0, 0x1FF⟩

/-- No bit that the format of `i` reserves is 1 in `w` (R117). -/
def reservedZero (i : Instr) (w : Word) : Bool :=
  dField w &&& (reservedBits i).d == 0 && aField w &&& (reservedBits i).a == 0 && bField w &&& (reservedBits i).b == 0

/-- The command of `i`'s row whose operands stand in `w` (R111, R112). -/
def withOperandsOf (w : Word) : Instr → Instr
  | .nop => .nop
  | .init => .init
  | .absorb => .absorb
  | .absorbLast _ => .absorbLast (lenField w)
  | .permute => .permute
  | .squeeze => .squeeze
  | .wrs _ => .wrs (dField w)
  | .rds _ => .rds (aField w)
  | .modadd _ _ _ => .modadd (dField w) (aField w) (bField w)
  | .modmul _ _ _ => .modmul (dField w) (aField w) (bField w)
  | .modpow _ _ => .modpow (dField w) (aField w)

/-- A row does not look at the operands (R115). -/
@[simp] theorem opcodeRow_withOperandsOf (w : Word) (i : Instr) : opcodeRow (withOperandsOf w i) = opcodeRow i := by
  cases i <;> rfl

/-- A row of the table fixes the whole opcode and the reserved bits at 0 (R112, R115). -/
theorem opcodeRow_eq_fields (i : Instr) :
    opcodeRow i = ⟨assembleFields (opField (encode i)) 0 0 0,
      assembleFields (.allOnes 5) (reservedBits i).d (reservedBits i).a (reservedBits i).b⟩ := by
  cases i <;> simp only [encode, opField_assembleFields, opcodeRow, reservedBits] <;> rfl

/-- The rows of the map are the rows of the commands (R115). -/
theorem mem_opcodeMap_iff (row : OpcodeRow) : row ∈ opcodeMap ↔ ∃ i, opcodeRow i = row := by
  constructor
  · intro h
    simp only [opcodeMap, List.mem_cons, List.not_mem_nil, or_false] at h
    rcases h with h | h | h | h | h | h | h | h | h | h | h <;> exact ⟨_, h.symm⟩
  · rintro ⟨i, rfl⟩
    cases i <;> simp [opcodeMap, opcodeRow]

/-- A word is of a command's row when it has the command's opcode and no reserved bit is 1 (R115, R117). -/
theorem row_match_iff (i : Instr) (w : Word) :
    w &&& (opcodeRow i).mask = (opcodeRow i).pattern ↔ opField w = opField (encode i) ∧ reservedZero i w = true := by
  conv_lhs => rw [opcodeRow_eq_fields, ← assembleFields_of_fields w]
  rw [assembleFields_and, assembleFields_inj, BitVec.and_allOnes]
  simp only [reservedZero, Bool.and_eq_true, beq_iff_eq, and_assoc]

/-- `w[8:6]` is 0 when the B field is 0 under the mask of these bits (R111). -/
theorem bHighField_beq_zero (w : Word) : (bHighField w == 0#3) = (bField w &&& 0x1C0#9 == 0#9) := by
  have hfield : bHighField w = (bField w).extractLsb' 6 3 := by
    apply BitVec.eq_of_toNat_eq
    rw [toNat_bHighField, BitVec.extractLsb'_toNat, toNat_bField, Nat.shiftRight_eq_div_pow]
    omega
  rw [hfield]
  generalize bField w = b
  revert b
  decide

/-- A field all of whose bits are reserved is compared whole (R117). -/
theorem and_wholeField (x : Index) : x &&& 0x1FF#9 = x := BitVec.and_allOnes

/-- The decoder on a word with the opcode of `i`: it reads the operands if the reserved bits are 0 (R117, R119). -/
theorem decode_of_opField {i : Instr} {w : Word} (h : opField w = opField (encode i)) :
    decode w = guardReserved (reservedZero i w) (withOperandsOf w i) := by
  cases i <;>
    simp [decode, h, encode, reservedZero, reservedBits, withOperandsOf, and_wholeField, bHighField_beq_zero,
      guardReserved]

/-- A legal word has the opcode of the command it decodes to (R119). -/
theorem opField_of_decode_ok {w : Word} {i : Instr} (h : decode w = .ok i) : opField w = opField (encode i) := by
  apply BitVec.eq_of_toNat_eq
  unfold decode at h
  split at h
  case h_12 => cases h
  case h_9 hop | h_10 hop =>
    cases h
    simp [hop, encode]
  all_goals
    next hop =>
    obtain ⟨-, rfl⟩ := (guardReserved_ok _ _ _).1 h
    simp [hop, encode]

/-- A word decodes to a command of a row exactly when it matches the row (R115). -/
theorem decode_to_row_iff (i : Instr) (w : Word) :
    (∃ j, decode w = .ok j ∧ opcodeRow j = opcodeRow i) ↔ w &&& (opcodeRow i).mask = (opcodeRow i).pattern := by
  constructor
  · rintro ⟨j, hj, hrow⟩
    have hop := opField_of_decode_ok hj
    obtain ⟨hzero, -⟩ := (guardReserved_ok _ _ _).1 ((decode_of_opField hop).symm.trans hj)
    rw [← hrow]
    exact (row_match_iff j w).2 ⟨hop, hzero⟩
  · intro hmatch
    obtain ⟨hop, hzero⟩ := (row_match_iff i w).1 hmatch
    refine ⟨withOperandsOf w i, ?_, opcodeRow_withOperandsOf w i⟩
    rw [decode_of_opField hop, guardReserved_ok]
    exact ⟨hzero, rfl⟩

/-- A word of a row decodes to a command of that row (R115). -/
theorem decode_of_row_match {w : Word} {row : OpcodeRow} (hrow : row ∈ opcodeMap) (hmatch : w &&& row.mask = row.pattern) :
    ∃ i, decode w = .ok i ∧ opcodeRow i = row := by
  obtain ⟨i, rfl⟩ := (mem_opcodeMap_iff row).1 hrow
  exact (decode_to_row_iff i w).2 hmatch

/-- A legal word matches a row of the map, its command's (R115). -/
theorem row_match_of_decode {w : Word} {i : Instr} (h : decode w = .ok i) :
    w &&& (opcodeRow i).mask = (opcodeRow i).pattern ∧ opcodeRow i ∈ opcodeMap :=
  ⟨(decode_to_row_iff i w).1 ⟨i, h, rfl⟩, (mem_opcodeMap_iff _).2 ⟨i, rfl⟩⟩

/-- Settles O3: decoding to a command of a row is matching the row, and a word decodes to one command, so two rows it
matches are that command's row. -/
theorem decodeFollowsOpcodeMap : Obligations.DecodeFollowsOpcodeMap := by
  intro w
  refine ⟨fun i => row_match_of_decode, fun row => decode_of_row_match, fun r hr r' hr' hm hm' => ?_⟩
  obtain ⟨i, hi, rfl⟩ := decode_of_row_match hr hm
  obtain ⟨j, hj, rfl⟩ := decode_of_row_match hr' hm'
  rw [hi] at hj
  cases hj
  rfl

end Sys2Proof.Proofs.OpcodeMap
end

section
/-! PROOF. Illegal words in flight (R116, R117), and the outcomes of a write to CMD (R124). -/

namespace Sys2Proof.Proofs.CommandWords

open Sys2Proof Sys2Proof.Machine Sys2Proof.Proofs.OpcodeMap

/-- The opcode is what stands above bit 26 (R111). -/
theorem toNat_shiftRight_opcode (w : Word) : (w >>> 27).toNat = (opField w).toNat := by
  rw [toNat_opField, BitVec.toNat_ushiftRight, Nat.shiftRight_eq_div_pow]
  omega

/-- No command has a reserved opcode (R116). -/
theorem opField_encode_defined (i : Instr) :
    (opField (encode i)).toNat ≠ 0x06 ∧ (opField (encode i)).toNat ≠ 0x07 ∧ (opField (encode i)).toNat < 0x0D := by
  cases i <;> simp [encode]

/-- A word with a reserved opcode, or of no row, decodes to no command (R116, R117). -/
theorem decode_error_of_illegal {w : Word}
    (h : (w >>> 27).toNat = 0x06 ∨ (w >>> 27).toNat = 0x07 ∨ 0x0D ≤ (w >>> 27).toNat ∨
      ∀ row ∈ opcodeMap, w &&& row.mask ≠ row.pattern) : ∃ e, decode w = .error e := by
  cases hd : decode w with
  | error e => exact ⟨e, rfl⟩
  | ok i =>
    obtain ⟨hmatch, hrow⟩ := row_match_of_decode hd
    obtain ⟨h6, h7, hlast⟩ := opField_encode_defined i
    rw [toNat_shiftRight_opcode, opField_of_decode_ok hd] at h
    rcases h with h | h | h | h
    · exact absurd h h6
    · exact absurd h h7
    · exact absurd hlast (Nat.not_lt.2 h)
    · exact absurd hmatch (h _ hrow)

/-- The first error is recorded (R29, R223). -/
theorem recordError_of_running {s : State} (c : ErrCode) (w : Word) (h : s.err = false) :
    s.recordError c w = { s with err := true, errcode := c, errcmd := w, errP := true } := by
  simp only [State.recordError, h, Bool.false_eq_true, if_false]

/-- The first error of a command is recorded, and the command completes (R224). -/
theorem raise_of_running {s : State} (c : ErrCode) (w : Word) (h : s.err = false) :
    s.raise c w =
      { s with err := true, errcode := c, errcmd := w, errP := true, inflight := none, busy := false } := by
  rw [State.raise, recordError_of_running c w h]
  rfl

/-- The core's move with an illegal word in flight (R116, R117). -/
theorem coreMove_of_illegal {s : State} {w : Word} {e : Illegal} (hclear : s.clearing = false)
    (hflight : s.inflight = some w) (hd : decode w = .error e) : s.coreMove = .next (s.raise .illegalCmd w) := by
  simp [State.coreMove, hclear, hflight, hd]

/-- Settles O6: neither kind of word decodes, so the core raises ILLEGAL_CMD, the first error. -/
theorem illegalWordRaisesIllegalCommand : Obligations.IllegalWordRaisesIllegalCommand := by
  intro s w hclear hflight herr hillegal
  obtain ⟨e, hd⟩ := decode_error_of_illegal hillegal
  rw [coreMove_of_illegal hclear hflight hd, raise_of_running .illegalCmd w herr]

/-- A write to CMD is an issue (R38, R43). -/
theorem access_write_cmd (s : State) (w : Word) :
    s.access (.write 0x010 4 w) = { s.issue w with reply := .ack } :=
  s.access_write_reg 0x010 w .cmd (by decide) (by decide)

/-- Settles O22: each outcome is a branch of `State.issue`, the second with the error recorded as the first one. -/
theorem commandIssue : Obligations.CommandIssue := by
  intro s w
  rw [access_write_cmd]
  refine ⟨fun herr => ?halted, fun herr hbusy => ?violation, fun herr hbusy => ?accepted⟩
  case halted => simp [State.issue, herr]
  case violation => simp [State.issue, herr, hbusy, recordError_of_running]
  case accepted => simp [State.issue, State.accept, herr, hbusy]

end Sys2Proof.Proofs.CommandWords
end

section
/-! PROOF. MODADD and MODMUL on residues (R140, R141): the units answer, and their reduced results are written to `S[D]`. -/

namespace Sys2Proof.Proofs.ModularArithmetic

open Sys2Proof Sys2Proof.Machine

/-- The sum of two residues, reduced by at most one subtraction (R140). -/
theorem modAdd_eq_ite {p a b : Nat} (ha : a < p) (hb : b < p) :
    modAdd p a b = if a + b < p then a + b else a + b - p := by
  unfold modAdd
  split
  next hlt => exact Nat.mod_eq_of_lt hlt
  next hge =>
    have hless : a + b - p < p := by omega
    rw [Nat.mod_eq_sub_mod (Nat.le_of_not_lt hge), Nat.mod_eq_of_lt hless]

/-- The adder does not fail on residues (R144). -/
theorem adder_of_below {p : Nat} {a b : Residue} (ha : a.toNat < p) (hb : b.toNat < p) :
    adder p a b = some (BitVec.ofNat 1024 (modAdd p a.toNat b.toNat)) := by
  rcases adder_cases p a b with ⟨-, -, answer⟩ | ⟨hfail, -⟩
  · exact answer
  · exact absurd ⟨ha, hb⟩ hfail

/-- The multiplier does not fail on residues (R144). -/
theorem multiplier_of_below {p : Nat} {a b : Residue} (ha : a.toNat < p) (hb : b.toNat < p) :
    multiplier p a b = some (BitVec.ofNat 1024 (modMul p a.toNat b.toNat)) := by
  rcases multiplier_cases p a b with ⟨-, -, answer⟩ | ⟨hfail, -⟩
  · exact answer
  · exact absurd ⟨ha, hb⟩ hfail

/-- A unit's reduced result is written to `S[d]` unchanged, and the command completes with DONE_P (R126, R143). -/
theorem writeResult_reduced (s : State) (d : Index) (w : Word) (n : Nat) :
    ∃ v : Residue, v.toNat = n % s.cfg.p ∧ v.toNat < s.cfg.p ∧
      s.writeResult d w (some (BitVec.ofNat 1024 (n % s.cfg.p))) =
        { s with S := s.S.set d.toNat v d.isLt, inflight := none, busy := false, doneP := true } := by
  have hval := s.cfg.toNat_ofNat_mod n
  exact ⟨_, hval, hval.trans_lt (Nat.mod_lt n s.cfg.p_pos), rfl⟩

/-- Settles O37: the adder answers the reduced sum, which is the sum or the sum less P. -/
theorem modaddResult : Obligations.ModaddResult := by
  intro d a b s ha hb
  obtain ⟨v, hval, hbelow, hwrite⟩ :=
    writeResult_reduced s d (encode (.modadd d a b)) ((s.readS a).toNat + (s.readS b).toNat)
  refine ⟨v, hval, hval.trans (modAdd_eq_ite ha hb), hbelow, ?_⟩
  rw [← hwrite]
  simp only [exec, execModadd, adder_of_below ha hb, modAdd]

/-- Settles O38: the multiplier answers the reduced exact product. -/
theorem modmulResult : Obligations.ModmulResult := by
  intro d a b s ha hb
  obtain ⟨v, hval, hbelow, hwrite⟩ :=
    writeResult_reduced s d (encode (.modmul d a b)) ((s.readS a).toNat * (s.readS b).toNat)
  refine ⟨v, hval, hbelow, ?_⟩
  rw [← hwrite]
  simp only [exec, execModmul, multiplier_of_below ha hb, modMul]

end Sys2Proof.Proofs.ModularArithmetic
end

section
/-! PROOF. A block added into the state, element by element (R173, R174): the chunks reach `S[0..7]`, the rest is kept. -/

namespace Sys2Proof.Proofs.BlockAddition

open Sys2Proof Sys2Proof.Machine

/-- The reduction in R173 changes no chunk. -/
theorem blockChunk_eq_beVal (c : Config) (blk : Vector Byte 64) (j : Nat) :
    blockChunk c.p blk j = beVal ((blk.toList.drop (8 * j)).take 8) :=
  Nat.mod_eq_of_lt (beVal_chunk_lt c _)

/-- An element that takes a chunk holds the reduced sum (R174). -/
theorem toNat_addBlock_of_lt (c : Config) (S : Vector Residue 512) (blk : Vector Byte 64) {i : Nat} (h : i < 512)
    (hi : i < 8) :
    ((addBlock c.p S blk)[i]'h).toNat =
      ((S[i]'h).toNat + beVal ((blk.toList.drop (8 * i)).take 8)) % c.p := by
  have hentry : (addBlock c.p S blk)[i]'h =
      BitVec.ofNat 1024 (((S[i]'h).toNat + blockChunk c.p blk i) % c.p) := by
    simp [addBlock, hi, modAdd, Vector.getD, h]
  rw [hentry, c.toNat_ofNat_mod, blockChunk_eq_beVal]

/-- The elements past the eight chunks are kept (R174). -/
theorem addBlock_of_ge (p : Nat) (S : Vector Residue 512) (blk : Vector Byte 64) {i : Nat} (h : i < 512)
    (hi : 8 ≤ i) : (addBlock p S blk)[i]'h = S[i]'h := by
  simp [addBlock, Nat.not_lt.2 hi, Vector.getD, h]

/-- Settles O43: the state that is permuted is `addBlock`'s, read at an index below 8 and at one from 8 on. -/
theorem absorbBlockMeaning : Obligations.AbsorbBlockMeaning := by
  intro c S blk _
  refine ⟨addBlock c.p S blk, rfl, fun i h => ⟨fun hi => ⟨?_, ?_⟩, fun hi => ?_⟩⟩
  · exact beVal_chunk_lt c _
  · exact toNat_addBlock_of_lt c S blk h hi
  · exact addBlock_of_ge c.p S blk h hi

end Sys2Proof.Proofs.BlockAddition
end

section
/-! PROOF. A permutation written out round by round (R191, R195). -/

namespace Sys2Proof.Proofs.PermutationRounds

open Sys2Proof Sys2Proof.Machine

/-- The round numbers of R195, in their order and each once: the values RNDCTR takes (R191). -/
theorem roundIndices_eq : roundIndices = [0, 1, 2, 3, 4, 5, 6, 7, 8, 9, 10, 11, 12, 13, 14, 15] := by decide

/-- Settles O49: the fold over the sequencer's round numbers, written out, starts at S and ends with round 15. -/
theorem permuteIsSixteenRounds : Obligations.PermuteIsSixteenRounds := by
  intro c S
  unfold permute
  rw [roundIndices_eq]
  simp only [List.foldl_cons, List.foldl_nil]

end Sys2Proof.Proofs.PermutationRounds
end

section
/-! PROOF. The decoder and the encoder undo each other (R111 to R119), and the words of the assembler (R120). -/

namespace Sys2Proof.Proofs.CommandEncoding

open Sys2Proof Sys2Proof.Machine Sys2Proof.Proofs.OpcodeMap

/-- A command's word has 0 in every bit its format reserves (R112, R117). -/
theorem reservedZero_encode (i : Instr) : reservedZero i (encode i) = true := by
  cases i with
  | absorbLast len => revert len; decide
  | _ => simp [reservedZero, reservedBits, encode]

/-- The operands of a command stand in its word (R111). -/
theorem withOperandsOf_encode (i : Instr) : withOperandsOf (encode i) i = i := by
  cases i <;> simp [withOperandsOf, encode]

/-- Settles O1: the word of a command has its opcode and no reserved bit, so the decoder reads its operands, which are the
command's. -/
theorem decodeEncode : Obligations.DecodeEncode := by
  intro i
  rw [decode_of_opField rfl, reservedZero_encode, withOperandsOf_encode]
  rfl

/-- A word with the opcode of a command and no reserved bit is the word of the operands it holds (R112, R117). -/
theorem encode_withOperandsOf {i : Instr} {w : Word} (hop : opField w = opField (encode i))
    (hzero : reservedZero i w = true) : encode (withOperandsOf w i) = w := by
  conv_rhs => rw [← assembleFields_of_fields w, hop]
  simp only [reservedZero, Bool.and_eq_true, beq_iff_eq] at hzero
  obtain ⟨⟨hd, ha⟩, hb⟩ := hzero
  cases i with
  | absorbLast len =>
    have hhigh : bHighField w = 0 := by
      rw [← beq_iff_eq]
      exact (bHighField_beq_zero w).trans (beq_iff_eq.2 hb)
    rw [bField_eq_len w hhigh]
    simp_all [encode, withOperandsOf, reservedBits, and_wholeField]
  | _ => simp_all [encode, withOperandsOf, reservedBits, and_wholeField]

/-- Settles O2: the decoder leaves no field of a legal word unread but those its command's word has as 0. -/
theorem encodeDecode : Obligations.EncodeDecode := by
  intro w i h
  have hop := opField_of_decode_ok h
  obtain ⟨hzero, hread⟩ := (guardReserved_ok _ _ _).1 ((decode_of_opField hop).symm.trans h)
  calc encode i = encode (withOperandsOf w i) := by rw [hread]
    _ = w := encode_withOperandsOf hop hzero

/-- Settles O4: the decoder run on each of the words. -/
theorem wordsDecodeAsWritten : Obligations.WordsDecodeAsWritten := by
  unfold Obligations.WordsDecodeAsWritten
  decide

/-- A line of one command is accepted, with that command and its word's value, exactly when its numbers are in range. -/
theorem accepted_or_refused {line : AsmLine} {inRange : Prop} [Decidable inRange] {i : Instr} {n : Nat}
    (hline : assemble line = if inRange then some [i] else none) (hword : inRange → (encode i).toNat = n) :
    (inRange → ∃ i, assemble line = some [i] ∧ (encode i).toNat = n) ∧ (¬ inRange → assemble line = none) := by
  rw [hline]
  exact ⟨fun h => ⟨i, if_pos h, hword h⟩, fun h => if_neg h⟩

/-! What the assembler makes of each line with operands (R120). -/

theorem assemble_modadd (sd sa sb : Nat) : assemble (.modadd sd sa sb) =
    if sd < 512 ∧ sa < 512 ∧ sb < 512 then some [.modadd (.ofNat 9 sd) (.ofNat 9 sa) (.ofNat 9 sb)] else none := by
  simp [assemble, AsmLine.wellFormed, indexOk, and_assoc]

theorem assemble_modmul (sd sa sb : Nat) : assemble (.modmul sd sa sb) =
    if sd < 512 ∧ sa < 512 ∧ sb < 512 then some [.modmul (.ofNat 9 sd) (.ofNat 9 sa) (.ofNat 9 sb)] else none := by
  simp [assemble, AsmLine.wellFormed, indexOk, and_assoc]

theorem assemble_modpow (sd sa : Nat) : assemble (.modpow sd sa) =
    if sd < 512 ∧ sa < 512 then some [.modpow (.ofNat 9 sd) (.ofNat 9 sa)] else none := by
  simp [assemble, AsmLine.wellFormed, indexOk]

theorem assemble_wrs (sd : Nat) : assemble (.wrs sd) = if sd < 512 then some [.wrs (.ofNat 9 sd)] else none := by
  simp [assemble, AsmLine.wellFormed, indexOk]

theorem assemble_rds (sa : Nat) : assemble (.rds sa) = if sa < 512 then some [.rds (.ofNat 9 sa)] else none := by
  simp [assemble, AsmLine.wellFormed, indexOk]

theorem assemble_absorbLast (len : Nat) : assemble (.absorbLast len) =
    if len < 64 then some [.absorbLast (.ofNat 6 len)] else none := by
  simp [assemble, AsmLine.wellFormed, lenOk]

/-- Settles O5: each line stands for one command if its numbers fit their fields, which then hold them unchanged. -/
theorem assembledWordValue : Obligations.AssembledWordValue := by
  refine ⟨fun sd sa sb => ⟨fun h => ?accepted, fun h => ?refused⟩,
    fun sd sa => accepted_or_refused (assemble_modpow sd sa) fun h => ?modpow,
    fun sd => accepted_or_refused (assemble_wrs sd) fun h => ?wrs,
    fun sa => accepted_or_refused (assemble_rds sa) fun h => ?rds,
    fun len => accepted_or_refused (assemble_absorbLast len) fun h => ?absorbLast⟩
  case accepted =>
    rw [assemble_modadd, assemble_modmul, if_pos h, if_pos h]
    refine ⟨_, _, rfl, rfl, ?_, ?_⟩ <;> simp [encode, toNat_assembleFields] <;> omega
  case refused => rw [assemble_modadd, assemble_modmul, if_neg h, if_neg h]; exact ⟨rfl, rfl⟩
  all_goals simp [encode, toNat_assembleFields]; omega

end Sys2Proof.Proofs.CommandEncoding
end

section
/-! PROOF. What a host access that is no reset can do, said once (R41, R43, R44, R47, R48, R87, R225). -/

namespace Sys2Proof.Proofs.HostAccess

open Sys2Proof Sys2Proof.Machine Sys2Proof.Proofs.RegisterWindow

/-- The ways a host access that is no reset ends. -/
inductive AccessEnds (s : State) : State → Prop
  | port (r : BusReply) (n : Nat) : AccessEnds s { s with reply := r, draws := n }
  | irqEnable (b : Bool) : AccessEnds s { s with irqEn := b, reply := .ack }
  | pendingCleared (w : Word) : AccessEnds s { s.clearPending w with reply := .ack }
  | accepted (herr : s.err = false) (hbusy : s.busy = false) (w : Word) : AccessEnds s { s.accept w with reply := .ack }
  | violation (hbusy : s.busy = true) (w : Word) :
      AccessEnds s { s.recordError .busyViolation w with reply := .ack }
  | xWritten (hbusy : s.busy = false) (v : Residue) : AccessEnds s { s with x := v, reply := .ack }
  | bbWritten (hbusy : s.busy = false) (v : Vector Byte 64) : AccessEnds s { s with bb := v, reply := .ack }

/-- A write to a register, unless it is the soft reset of CTRL (R38). -/
theorem writeReg_ends (s : State) (r : Reg) (w : Word) (hkeep : ¬ (r = .ctrl ∧ w.getLsbD 0 = true)) :
    AccessEnds s { s.writeReg r w with reply := .ack } := by
  cases r with
  | ctrl =>
    rcases s.writeCtrl_cases w with ⟨hbit, -⟩ | ⟨-, e⟩
    · exact absurd ⟨rfl, hbit⟩ hkeep
    · rw [State.writeReg, e]; exact .irqEnable _
  | cmd =>
    rcases s.issue_cases w with ⟨-, e⟩ | ⟨-, hbusy, e⟩ | ⟨herr, hbusy, e⟩ <;> rw [State.writeReg, e]
    · exact .port .ack s.draws
    · exact .violation hbusy w
    · exact .accepted herr hbusy w
  | irqStatus => exact .pendingCleared w
  | xWord k =>
    rcases s.guardData_cases { s with x := putWindowWord s.x k w } with ⟨hbusy, e⟩ | ⟨hbusy, e⟩ <;>
      rw [State.writeReg, e]
    · exact .violation hbusy 0
    · exact .xWritten hbusy _
  | bbWord k =>
    rcases s.guardData_cases { s with bb := putBbWord s.bb k w } with ⟨hbusy, e⟩ | ⟨hbusy, e⟩ <;>
      rw [State.writeReg, e]
    · exact .violation hbusy 0
    · exact .bbWritten hbusy _
  | id | param | status | blkcntLo | blkcntHi | errcmd | dgWord | reserved => exact .port .ack s.draws

/-- What a host access that is no reset can do. -/
theorem access_ends (s : State) (a : Access) (hkeep : (Event.bus a).isReset = false) : AccessEnds s (s.access a) := by
  cases a with
  | read off size =>
    obtain ⟨r, n, e⟩ := access_read_frame s off size
    rw [e]
    exact .port r n
  | write off size v =>
    simp only [State.access]
    split
    next hok =>
      refine writeReg_ends s (regAt off) v ?_
      rintro ⟨hctrl, hbit⟩
      rw [Event.isReset, hok, hctrl, hbit] at hkeep
      cases hkeep
    next => exact .port .busError s.draws

/-- Settles O24: while BUSY = 1 an access that is no reset reaches at most the port, the interrupt bits and the error record. -/
theorem operandsFrozenWhileBusy : Obligations.OperandsFrozenWhileBusy := by
  intro s a hbusy hkeep
  have ends := access_ends s a hkeep
  generalize s.access a = t at ends ⊢
  cases ends with
  | accepted _ hfree | xWritten hfree | bbWritten hfree => rw [hbusy] at hfree; cases hfree
  | violation => simp [hbusy]
  | port | irqEnable | pendingCleared => exact ⟨rfl, rfl, rfl, rfl, rfl, rfl, rfl, hbusy, rfl, rfl⟩

/-- No register shows S (R23). -/
theorem regWord_S (s : State) (S' : Vector Residue 512) (r : Reg) : { s with S := S' }.regWord r = s.regWord r := by
  cases r <;> rfl

/-- Settles O25: no access that is no reset writes S, and no register's word is taken from it. -/
theorem hostCannotAddressS : Obligations.HostCannotAddressS := by
  refine ⟨access_S, fun s S' off size => ?_⟩
  simp only [State.access]
  split
  · rw [readReg_reply, readReg_reply, regWord_S]
  · rfl

/-- While BUSY = 0 a read of a register answers its word and changes nothing (R87). -/
theorem readReg_of_idle {s : State} (r : Reg) (hbusy : s.busy = false) :
    s.readReg r = { s with reply := .data (s.regWord r) } := by
  simp [State.readReg, hbusy]

/-- No register shows the answer of the port. -/
theorem regWord_reply (s : State) (q : BusReply) (r : Reg) : { s with reply := q }.regWord r = s.regWord r := by
  cases r <;> rfl

/-- Settles O21: a read changes the answer of the port and the count of draws, and no register's word is taken from the
answer. -/
theorem readHasNoSideEffect : Obligations.ReadHasNoSideEffect := by
  intro s off size
  constructor
  · obtain ⟨r, n, e⟩ := access_read_frame s off size
    rw [e]
  · intro hbusy
    simp only [State.access]
    split
    · have hfree : (s.readReg (regAt off)).busy = false := by rw [readReg_of_idle _ hbusy]; exact hbusy
      rw [readReg_of_idle _ hfree, readReg_of_idle _ hbusy]
      exact congrArg BusReply.data (regWord_reply s _ _)
    · rfl

/-- Settles O20: the port does not perform such an access. -/
theorem busErrorChangesNothing : Obligations.BusErrorChangesNothing := by
  intro s off size v h
  have hrefused : accessOk off size = false := by
    rw [accessOk, Bool.and_eq_false_iff, beq_eq_false_iff_ne, beq_eq_false_iff_ne]
    exact h
  simp [State.access, hrefused]

end Sys2Proof.Proofs.HostAccess
end

section
/-! PROOF. The error record along a step (R29, R223, R224, R228, R231), and the completion of commands (R126). -/

namespace Sys2Proof.Proofs.ErrorRecord

open Sys2Proof Sys2Proof.Machine Sys2Proof.Proofs.StepOutcomes Sys2Proof.Proofs.HostAccess

/-- What `t`, after `s`, holds in ERR, ERRCODE, ERRCMD and ERR_P: what they were, ERR_P perhaps cleared, or the first error,
which is INTERNAL only where `s` does not hold residues. -/
inductive ErrorChange (s t : State) : Prop
  | kept (err : t.err = s.err) (code : t.errcode = s.errcode) (cmd : t.errcmd = s.errcmd)
      (pending : t.errP = true → s.errP = true)
  | raised (first : s.err = false) (err : t.err = true) (code : t.errcode ≠ .none)
      (cause : t.errcode = .internal → ¬ s.ResiduesBelow)

/-- Recording an error other than INTERNAL. -/
theorem recordError_change (s : State) {c : ErrCode} (w : Word) (hnone : c ≠ .none) (hint : c ≠ .internal) :
    ErrorChange s (s.recordError c w) := by
  rcases s.recordError_cases c w with ⟨-, e⟩ | ⟨first, e⟩ <;> rw [e]
  · exact .kept rfl rfl rfl id
  · exact .raised first rfl hnone fun h => absurd h hint

/-- Completing a command touches no part of the error record. -/
theorem ErrorChange.complete {s t : State} (h : ErrorChange s t) : ErrorChange s t.complete := by
  cases h with
  | kept err code cmd pending => exact .kept err code cmd pending
  | raised first err code cause => exact .raised first err code cause

/-- Taking an event from the list touches no part of the error record. -/
theorem ErrorChange.of_events {s t : State} {es : List Event} (h : ErrorChange { s with events := es } t) :
    ErrorChange s t := by
  cases h with
  | kept err code cmd pending => exact .kept err code cmd pending
  | raised first err code cause => exact .raised first err code cause

/-- A command that raises no error leaves the error record. -/
theorem effect_error {s u : State} {i : Instr} (h : Effect s i u) :
    u.err = s.err ∧ u.errcode = s.errcode ∧ u.errcmd = s.errcmd ∧ u.errP = s.errP := by
  cases h <;> exact ⟨rfl, rfl, rfl, rfl⟩

theorem ends_errorChange {s t : State} {i : Instr} (h : Ends s i t) : ErrorChange s t := by
  cases h with
  | done effect =>
    obtain ⟨err, code, cmd, pending⟩ := effect_error effect
    exact .kept err code cmd (Eq.trans pending.symm)
  | raised checked =>
    refine (recordError_change s (encode i) ?_ ?_).complete <;> rcases checked with rfl | rfl | rfl <;> decide
  | internal unsound =>
    unfold State.raiseInternal
    rcases State.raise_cases _ .internal (encode i) with ⟨-, e⟩ | ⟨first, e⟩ <;> rw [e]
    · exact .kept rfl rfl rfl id
    · exact .raised first rfl (by simp) fun _ => unsound

theorem coreEnds_errorChange {s t : State} (h : CoreEnds s t) : ErrorChange s t := by
  cases h with
  | cleared => exact .kept rfl rfl rfl id
  | idle => exact .kept rfl rfl rfl id
  | executed _ _ _ ends => exact ends_errorChange ends
  | illegal => exact (recordError_change s _ (by decide) (by decide)).complete

theorem accessEnds_errorChange {s t : State} (h : AccessEnds s t) : ErrorChange s t := by
  cases h with
  | violation hbusy w =>
    cases recordError_change s (c := .busyViolation) w (by decide) (by decide) with
    | kept err code cmd pending => exact .kept err code cmd pending
    | raised first err code cause => exact .raised first err code cause
  | pendingCleared w => exact .kept rfl rfl rfl fun h => (Bool.and_eq_true_iff.1 h).1
  | port | irqEnable | accepted | xWritten | bbWritten => exact .kept rfl rfl rfl id

/-- A step changes the error record as `ErrorChange` says, or it is a reset. -/
theorem step_errorChange {s t : State} (h : step s = .next t) :
    ErrorChange s t ∨ (∃ e es, s.events = e :: es ∧ e.isReset = true) ∧ t.errcode = .none := by
  cases step_kind h with
  | core es _ ends => exact .inl (coreEnds_errorChange ends).of_events
  | access a es _ hkeep =>
    exact .inl (accessEnds_errorChange (access_ends { s with events := es } a hkeep)).of_events
  | reset e es r hev hreset => exact .inr ⟨⟨e, es, hev, hreset⟩, rfl⟩

/-- Settles O13: while ERR = 1 no step raises a first error, so a step that is no reset keeps the record. -/
theorem onlyResetLeavesHalt : Obligations.OnlyResetLeavesHalt := by
  intro s t herr hnoReset h
  rcases step_errorChange h with change | ⟨⟨e, es, hev, hreset⟩, -⟩
  · cases change with
    | kept err code cmd => exact ⟨err.trans herr, code, cmd⟩
    | raised first => rw [herr] at first; cases first
  · rw [hnoReset e es hev] at hreset; cases hreset

/-- Settles O59: INTERNAL is raised only where S does not hold residues. -/
theorem internalIsNeverRaised : Obligations.InternalIsNeverRaised := by
  intro s t hres hcode h
  rcases step_errorChange h with change | ⟨-, hreset⟩
  · cases change with
    | kept err code => rwa [code]
    | raised first err code cause => exact fun hint => cause hint hres
  · simp [hreset]

/-- The core's own move answers a next state, because every command does (R224, R262). -/
theorem coreMove_answers_next (s : State) : ∃ t, s.coreMove = .next t := by
  rcases s.coreMove_cases with ⟨-, e⟩ | ⟨-, -, e⟩ | ⟨-, w, -, ⟨i, -, e⟩ | ⟨x, -, e⟩⟩ <;> rw [e]
  · exact ⟨_, rfl⟩
  · exact ⟨_, rfl⟩
  · exact exec_answers_next i s
  · exact ⟨_, rfl⟩

/-- Settles O8: the core's move answers a next state, and accesses and resets always do. -/
theorem stepAlwaysAnswersNext : Obligations.StepAlwaysAnswersNext := by
  intro s
  match hev : s.events with
  | [] => rw [step_idle s hev]; exact coreMove_answers_next s
  | .core :: es => rw [step_event s _ es hev]; exact coreMove_answers_next _
  | .bus a :: es => rw [step_event s _ es hev]; exact ⟨_, rfl⟩
  | .resetPin :: es => rw [step_event s _ es hev]; exact ⟨_, rfl⟩

/-- Settles O7: the core's move runs the command that the word in flight decodes to. -/
theorem stepRunsDecodedCommand : Obligations.StepRunsDecodedCommand := by
  intro s w i hclear hflight hd
  have hmove : ∀ es, ({ s with events := es } : State).coreMove = exec i { s with events := es } := fun es => by
    simp [State.coreMove, hclear, hflight, hd]
  refine ⟨fun rest hev => (step_event s _ rest hev).trans (hmove rest), fun hev => ?_⟩
  rw [step_idle s hev]
  exact hmove s.events

/-- An error of a command completes it and leaves DONE_P; the first one records its word and is pending (R126, R224). -/
theorem raise_completes (s : State) (c : ErrCode) (w : Word) :
    (s.raise c w).err = true ∧ (s.err = false → (s.raise c w).errcmd = w ∧ (s.raise c w).errP = true) := by
  rcases s.raise_cases c w with ⟨herr, e⟩ | ⟨-, e⟩ <;> rw [e]
  · exact ⟨herr, fun h => absurd herr (by simp [h])⟩
  · exact ⟨rfl, fun _ => ⟨rfl, rfl⟩⟩

/-- Settles O9: a command without error finishes with DONE_P, and one with an error completes as `raise` does. -/
theorem everyCommandCompletes : Obligations.EveryCommandCompletes := by
  intro i s
  obtain ⟨t, ht, ends⟩ := exec_ends i s
  refine ⟨t, ht, ?_⟩
  cases ends with
  | done effect =>
    obtain ⟨herr, -⟩ := effect_error effect
    refine ⟨rfl, rfl, fun _ => rfl, fun _ => rfl, fun hno hraised => ?_⟩
    rw [State.finish_err, herr, hno] at hraised
    cases hraised
  | @raised code checked =>
    obtain ⟨herr, hfirst⟩ := raise_completes s code (encode i)
    simpa [herr] using fun h => hfirst h
  | internal unsound =>
    unfold State.raiseInternal
    obtain ⟨herr, hfirst⟩ := raise_completes
      { s with S := tabulate 512 (Config.freeResidue s.draws), draws := s.draws + 1 } .internal (encode i)
    simpa [herr] using fun h => hfirst h

end Sys2Proof.Proofs.ErrorRecord
end

section
/-! PROOF. DG, BLKCNT and PHASE along a step: which commands write them, and what a reset leaves (R26 to R28). -/

namespace Sys2Proof.Proofs.DigestState

open Sys2Proof Sys2Proof.Machine Sys2Proof.Proofs.StepOutcomes Sys2Proof.Proofs.HostAccess
  Sys2Proof.Proofs.CommandEncoding

/-- DG, BLKCNT and PHASE are what they were. -/
structure DigestKept (s t : State) : Prop where
  dg : t.dg = s.dg
  blkcnt : t.blkcnt = s.blkcnt
  phase : t.phase = s.phase

/-- What the command `i` does to DG, BLKCNT and PHASE. -/
inductive DigestChange (s : State) : Instr → State → Prop
  | kept {i : Instr} {t : State} (h : DigestKept s t) : DigestChange s i t
  | init {t : State} (dg : t.dg = 0) (blkcnt : t.blkcnt = 0) (phase : t.phase = .absorbing) : DigestChange s .init t
  | absorb {t : State} (hphase : s.phase = .absorbing) (room : s.blkcnt ≠ blkcntMax) (dg : t.dg = s.dg)
      (blkcnt : t.blkcnt = s.blkcnt + 1) (phase : t.phase = .absorbing) : DigestChange s .absorb t
  | absorbLast {t : State} (len : BitVec 6) (hphase : s.phase = .absorbing) (room : s.blkcnt ≠ blkcntMax) (dg : t.dg = s.dg)
      (blkcnt : t.blkcnt = s.blkcnt + 1) (phase : t.phase = .final) : DigestChange s (.absorbLast len) t
  | squeeze {t : State} (hphase : s.phase = .final) (dg : t.dg = s.readS 0) (blkcnt : t.blkcnt = s.blkcnt)
      (phase : t.phase = s.phase) : DigestChange s .squeeze t

theorem effect_digestChange {s u : State} {i : Instr} (h : Effect s i u) : DigestChange s i u.finish := by
  cases h with
  | init => exact .init rfl rfl rfl
  | absorb hphase hroom => exact .absorb hphase hroom rfl rfl rfl
  | absorbLast len hphase hroom => exact .absorbLast len hphase hroom rfl rfl rfl
  | squeeze hphase => exact .squeeze hphase rfl rfl rfl
  | nop | permute | wrs | rds | modadd | modmul | modpow => exact .kept ⟨rfl, rfl, rfl⟩

/-- An error of a command writes none of the three (R224, R228). -/
theorem ends_digestChange {s t : State} {i : Instr} (h : Ends s i t) : DigestChange s i t := by
  cases h with
  | done effect => exact effect_digestChange effect
  | raised => exact .kept ⟨by simp, by simp, by simp⟩
  | internal => exact .kept ⟨by simp [State.raiseInternal], by simp [State.raiseInternal], by simp [State.raiseInternal]⟩

/-- The core's move leaves the three, or it executes the command in flight, whose word is the one command's word that
decodes to it (R117, R119). -/
theorem coreEnds_digestChange {s t : State} (h : CoreEnds s t) :
    DigestKept s t ∨ ∃ i, s.inflight = some (encode i) ∧ DigestChange s i t := by
  cases h with
  | cleared => exact .inl ⟨rfl, rfl, rfl⟩
  | idle => exact .inl ⟨rfl, rfl, rfl⟩
  | illegal => exact .inl ⟨by simp, by simp, by simp⟩
  | @executed i w t hclear hflight hdecode ends =>
    refine .inr ⟨i, ?_, ends_digestChange ends⟩
    rw [hflight, encodeDecode w i hdecode]

theorem accessEnds_digestKept {s t : State} (h : AccessEnds s t) : DigestKept s t := by
  cases h with
  | violation => exact ⟨by simp, by simp, by simp⟩
  | port | irqEnable | pendingCleared | accepted | xWritten | bbWritten => exact ⟨rfl, rfl, rfl⟩

/-- The step took a reset. -/
def TookReset (s : State) : Prop := ∃ e rest, s.events = e :: rest ∧ e.isReset = true

/-- What a step does to DG, BLKCNT and PHASE. -/
inductive StepDigest (s t : State) : Prop
  | kept (h : DigestKept s t)
  | command (i : Instr) (hflight : s.inflight = some (encode i)) (h : DigestChange s i t)
  | reset (h : TookReset s) (dg : t.dg = 0) (blkcnt : t.blkcnt = 0) (phase : t.phase = .uninit)

/-- Taking an event from the list touches none of the three. -/
theorem DigestKept.of_events {s t : State} {es : List Event} (h : DigestKept { s with events := es } t) : DigestKept s t :=
  ⟨h.dg, h.blkcnt, h.phase⟩

theorem DigestChange.of_events {s t : State} {i : Instr} {es : List Event} (h : DigestChange { s with events := es } i t) :
    DigestChange s i t := by
  cases h with
  | kept h => exact .kept h.of_events
  | init dg blkcnt phase => exact .init dg blkcnt phase
  | absorb hphase room dg blkcnt phase => exact .absorb hphase room dg blkcnt phase
  | absorbLast len hphase room dg blkcnt phase => exact .absorbLast len hphase room dg blkcnt phase
  | squeeze hphase dg blkcnt phase => exact .squeeze hphase dg blkcnt phase

theorem step_digest {s t : State} (h : step s = .next t) : StepDigest s t := by
  cases step_kind h with
  | core es _ ends =>
    rcases coreEnds_digestChange ends with hkept | ⟨i, hflight, hchange⟩
    · exact .kept hkept.of_events
    · exact .command i hflight hchange.of_events
  | access a es _ hkeep => exact .kept (accessEnds_digestKept (access_ends { s with events := es } a hkeep)).of_events
  | reset e es r hev hreset => exact .reset ⟨e, es, hev, hreset⟩ rfl rfl rfl

/-- Settles O15: of the changes of a step, those of INIT, SQUEEZE and a reset write DG. -/
theorem digestChangesOnlyBySqueezeInitReset : Obligations.DigestChangesOnlyBySqueezeInitReset := by
  intro s t h hne
  cases step_digest h with
  | kept h => exact absurd h.dg hne
  | reset h => exact .inr (.inr h)
  | command i hflight h =>
    cases h with
    | kept h => exact absurd h.dg hne
    | absorb _ _ dg => exact absurd dg hne
    | absorbLast _ _ _ dg => exact absurd dg hne
    | init => exact .inr (.inl hflight)
    | squeeze => exact .inl hflight

/-- With room, the count of blocks goes up as an integer (R27). -/
theorem toNat_succ_of_room {n : BitVec 64} (room : n ≠ blkcntMax) : (n + 1).toNat = n.toNat + 1 := by
  have hne : n.toNat ≠ 2 ^ 64 - 1 := fun h => room (BitVec.eq_of_toNat_eq h)
  have hlt := n.isLt
  rw [BitVec.toNat_add]
  exact Nat.mod_eq_of_lt (by simp; omega)

/-- Settles O16: of the changes of a step, those of the absorb commands count, with room, and those of INIT and a reset
clear. -/
theorem blockCounterNeverWraps : Obligations.BlockCounterNeverWraps := by
  intro s t h
  cases step_digest h with
  | kept h => exact .inl h.blkcnt
  | reset h _ blkcnt => exact .inr (.inr ⟨blkcnt, .inr h⟩)
  | command i hflight h =>
    cases h with
    | kept h => exact .inl h.blkcnt
    | squeeze _ _ blkcnt => exact .inl blkcnt
    | init _ blkcnt => exact .inr (.inr ⟨blkcnt, .inl hflight⟩)
    | absorb _ room _ blkcnt => exact .inr (.inl ⟨blkcnt ▸ toNat_succ_of_room room, .inl hflight⟩)
    | absorbLast len _ room _ blkcnt => exact .inr (.inl ⟨blkcnt ▸ toNat_succ_of_room room, .inr ⟨len, hflight⟩⟩)

/-- Settles O17: of the changes of a step, those of INIT, ABSORB_LAST and a reset write another PHASE. -/
theorem phaseTransitions : Obligations.PhaseTransitions := by
  intro s t h hne
  cases step_digest h with
  | kept h => exact absurd h.phase hne
  | reset h _ _ phase => exact .inl ⟨phase, h⟩
  | command i hflight h =>
    cases h with
    | kept h => exact absurd h.phase hne
    | squeeze _ _ _ phase => exact absurd phase hne
    | absorb hphase _ _ _ phase => exact absurd (phase.trans hphase.symm) hne
    | init _ _ phase => exact .inr (.inl ⟨phase, hflight⟩)
    | absorbLast len hphase _ _ _ phase => exact .inr (.inr ⟨hphase, phase, len, hflight⟩)

end Sys2Proof.Proofs.DigestState
end

section
/-! PROOF. Sound states stay sound (R22, R26 to R32, R220): the parts of `State.Sound`, each kept by every step. -/

namespace Sys2Proof.Proofs.SoundStates

open Sys2Proof Sys2Proof.Machine Sys2Proof.Proofs.StepOutcomes Sys2Proof.Proofs.HostAccess
  Sys2Proof.Proofs.StateInvariants Sys2Proof.Proofs.ErrorRecord Sys2Proof.Proofs.DigestState

/-- The part of `State.Sound` about the work in progress (R31 to R33). -/
structure WorkSound (s : State) : Prop where
  busy_exact : s.busy = (s.inflight.isSome || s.clearing)
  clear_alone : s.clearing = true → s.inflight = none
  rndctr_zero : s.rndctr = 0

/-- The part of `State.Sound` about the error record (R29, R30, R220). -/
structure ErrorsSound (s : State) : Prop where
  err_recorded : s.err = false ↔ s.errcode = .none
  errcmd_zero : s.err = false → s.errcmd = 0
  errP_err : s.errP = true → s.err = true

/-- The part of `State.Sound` about DG, BLKCNT and PHASE (R26 to R28). -/
structure DigestSound (s : State) : Prop where
  dg_final : s.phase ≠ .final → s.dg = 0
  dg_below : s.dg.toNat < s.cfg.p
  blkcnt_uninit : s.phase = .uninit → s.blkcnt = 0
  blkcnt_final : s.phase = .final → s.blkcnt ≠ 0

/-- A sound state is one with residues in S and the three parts. -/
theorem sound_iff (s : State) : s.Sound ↔ s.ResiduesBelow ∧ WorkSound s ∧ ErrorsSound s ∧ DigestSound s := by
  constructor
  · intro h
    exact ⟨h.residues, ⟨h.busy_exact, h.clear_alone, h.rndctr_zero⟩, ⟨h.err_recorded, h.errcmd_zero, h.errP_err⟩,
      ⟨h.dg_final, h.dg_below, h.blkcnt_uninit, h.blkcnt_final⟩⟩
  · rintro ⟨hres, ⟨hbusy, hclear, hctr⟩, ⟨herr, hcmd, hpending⟩, ⟨hdg, hbelow, huninit, hfinal⟩⟩
    exact ⟨hres, hbusy, hclear, hctr, herr, hcmd, hpending, hdg, hbelow, huninit, hfinal⟩

/-- The state of a reset is sound, whatever waits on the bus (R51). -/
theorem resetWith_sound (c : Config) (es : List Event) (r : BusReply) (n : Nat) :
    ({ State.resetWith c with events := es, reply := r, draws := n } : State).Sound := by
  refine (sound_iff _).2 ⟨residuesBelow_of_clear rfl, ⟨rfl, fun _ => rfl, rfl⟩, ⟨?_, fun _ => rfl, nofun⟩,
    ⟨fun _ => rfl, c.zero_below, fun _ => rfl, nofun⟩⟩
  exact ⟨fun _ => rfl, fun _ => rfl⟩

/-- Settles O11: the state right after reset is the one of a reset with nothing waiting. -/
theorem resetIsSound : Obligations.ResetIsSound := fun c => resetWith_sound c [] .idle 0

/-- A completed command is no work. -/
theorem workSound_of_completed {t : State} (hbusy : t.busy = false) (hflight : t.inflight = none)
    (hclear : t.clearing = false) (hctr : t.rndctr = 0) : WorkSound t :=
  ⟨by rw [hbusy, hflight, hclear]; rfl, fun _ => hflight, hctr⟩

/-- A command ends no clear, and RNDCTR is 0 after it if it was 0 before (R32, R191). -/
theorem effect_work {s u : State} {i : Instr} (h : Effect s i u) :
    u.clearing = s.clearing ∧ (s.rndctr = 0 → u.rndctr = 0) := by
  cases h with
  | absorb | absorbLast | permute => exact ⟨rfl, fun _ => rfl⟩
  | nop | init | squeeze | wrs | rds | modadd | modmul | modpow => exact ⟨rfl, id⟩

theorem ends_workSound {s t : State} {i : Instr} (h : Ends s i t) (hclear : s.clearing = false) (hs : WorkSound s) :
    WorkSound t := by
  cases h with
  | done effect =>
    obtain ⟨hkeep, hctr⟩ := effect_work effect
    exact workSound_of_completed rfl rfl (hkeep.trans hclear) (hctr hs.rndctr_zero)
  | raised => exact workSound_of_completed (by simp) (by simp) (by simpa) (by simpa using hs.rndctr_zero)
  | internal =>
    unfold State.raiseInternal
    exact workSound_of_completed (by simp) (by simp) (by simpa) (by simpa using hs.rndctr_zero)

theorem coreEnds_workSound {s t : State} (h : CoreEnds s t) (hs : WorkSound s) : WorkSound t := by
  cases h with
  | cleared hclear => exact workSound_of_completed rfl (hs.clear_alone hclear) rfl hs.rndctr_zero
  | idle => exact hs
  | executed hclear _ _ ends => exact ends_workSound ends hclear hs
  | illegal hclear => exact workSound_of_completed (by simp) (by simp) (by simpa) (by simpa using hs.rndctr_zero)

/-- The work is sound wherever its four fields are what they were. -/
theorem workSound_of_eq {s t : State} (hs : WorkSound s) (hbusy : t.busy = s.busy) (hflight : t.inflight = s.inflight)
    (hclear : t.clearing = s.clearing) (hctr : t.rndctr = s.rndctr) : WorkSound t := by
  refine ⟨?_, ?_, hctr.trans hs.rndctr_zero⟩
  · rw [hbusy, hflight, hclear]; exact hs.busy_exact
  · rw [hflight, hclear]; exact hs.clear_alone

/-- An access starts work only while there is none (R124). -/
theorem accessEnds_workSound {s t : State} (h : AccessEnds s t) (hs : WorkSound s) : WorkSound t := by
  cases h with
  | accepted herr hbusy w =>
    have hclear : s.clearing = false := (Bool.or_eq_false_iff.1 (hs.busy_exact.symm.trans hbusy)).2
    exact ⟨rfl, fun h => absurd h (by simp [hclear]), hs.rndctr_zero⟩
  | violation => exact workSound_of_eq hs (by simp) (by simp) (by simp) (by simp)
  | port | irqEnable | pendingCleared | xWritten | bbWritten => exact workSound_of_eq hs rfl rfl rfl rfl

theorem errorChange_sound {s t : State} (h : ErrorChange s t) (hs : ErrorsSound s) : ErrorsSound t := by
  cases h with
  | kept err code cmd pending =>
    refine ⟨?_, ?_, fun h => ?_⟩
    · rw [err, code]; exact hs.err_recorded
    · rw [err, cmd]; exact hs.errcmd_zero
    · rw [err]; exact hs.errP_err (pending h)
  | raised first err code cause =>
    exact ⟨by simp [err, code], fun h => absurd h (by simp [err]), fun _ => err⟩

theorem digestKept_sound {s t : State} (h : DigestKept s t) (hcfg : t.cfg = s.cfg) (hs : DigestSound s) :
    DigestSound t := by
  obtain ⟨dg, blkcnt, phase⟩ := h
  refine ⟨?_, ?_, ?_, ?_⟩
  · rw [phase, dg]; exact hs.dg_final
  · rw [dg, hcfg]; exact hs.dg_below
  · rw [phase, blkcnt]; exact hs.blkcnt_uninit
  · rw [phase, blkcnt]; exact hs.blkcnt_final

/-- The digest is 0 outside FINAL, so it stays a residue through INIT and absorption; SQUEEZE copies a residue. -/
theorem digestChange_sound {s t : State} {i : Instr} (h : DigestChange s i t) (hcfg : t.cfg = s.cfg)
    (hres : s.ResiduesBelow) (hs : DigestSound s) : DigestSound t := by
  cases h with
  | kept h => exact digestKept_sound h hcfg hs
  | init dg blkcnt phase =>
    exact ⟨fun _ => dg, by rw [dg]; exact t.cfg.zero_below, fun _ => blkcnt, fun h => by rw [phase] at h; cases h⟩
  | absorb hphase room dg blkcnt phase =>
    refine ⟨fun _ => ?_, ?_, fun h => ?_, fun h => ?_⟩
    · rw [dg]; exact hs.dg_final (by simp [hphase])
    · rw [dg, hcfg]; exact hs.dg_below
    · rw [phase] at h; cases h
    · rw [phase] at h; cases h
  | absorbLast len hphase room dg blkcnt phase =>
    refine ⟨fun h => absurd phase h, ?_, fun h => ?_, fun _ hzero => ?_⟩
    · rw [dg, hcfg]; exact hs.dg_below
    · rw [phase] at h; cases h
    · have hcount := toNat_succ_of_room room
      rw [← blkcnt, hzero] at hcount
      cases hcount
  | squeeze hphase dg blkcnt phase =>
    refine ⟨fun h => absurd (phase.trans hphase) h, ?_, fun h => ?_, fun _ => ?_⟩
    · rw [dg, hcfg]; exact hres 0
    · rw [phase, hphase] at h; cases h
    · rw [blkcnt]; exact hs.blkcnt_final hphase

/-- Settles O10: residues, work, error record and digest are each kept by the core's move and by an access, and a reset
ends in a sound state. -/
theorem stepKeepsSound : Obligations.StepKeepsSound := by
  intro s t hs h
  obtain ⟨hres, hwork, herrors, hdigest⟩ := (sound_iff s).1 hs
  have hres' := step_residuesBelow s t hres h
  have hcfg := step_cfg h
  cases step_kind h with
  | reset e es r => exact resetWith_sound s.cfg es r s.draws
  | core es _ ends =>
    have hwork' : WorkSound { s with events := es } := workSound_of_eq hwork rfl rfl rfl rfl
    refine (sound_iff t).2 ⟨hres', coreEnds_workSound ends hwork',
      errorChange_sound (coreEnds_errorChange ends).of_events herrors, ?_⟩
    rcases coreEnds_digestChange ends with hkept | ⟨i, -, hchange⟩
    · exact digestKept_sound hkept.of_events hcfg hdigest
    · exact digestChange_sound hchange.of_events hcfg hres hdigest
  | access a es _ hkeep =>
    have hwork' : WorkSound { s with events := es } := workSound_of_eq hwork rfl rfl rfl rfl
    have ends := access_ends { s with events := es } a hkeep
    exact (sound_iff _).2 ⟨hres', accessEnds_workSound ends hwork',
      errorChange_sound (accessEnds_errorChange ends).of_events herrors,
      digestKept_sound (accessEnds_digestKept ends).of_events hcfg hdigest⟩

end Sys2Proof.Proofs.SoundStates
end

section
/-! PROOF. The control registers, the interrupt, the resets, and the offsets without an effect (R38, R41, R44, R50, R225,
R251, R252). -/

namespace Sys2Proof.Proofs.ControlRegisters

open Sys2Proof Sys2Proof.Machine Sys2Proof.Proofs.RegisterWindow Sys2Proof.Proofs.CommandWords
  Sys2Proof.Proofs.StateInvariants

/-- A write to CTRL is taken by CTRL (R38, R41). -/
theorem access_write_ctrl (s : State) (w : Word) :
    s.access (.write 0x008 4 w) = { s.writeCtrl w with reply := .ack } :=
  s.access_write_reg 0x008 w .ctrl (by decide) (by decide)

/-- Settles O19: the soft reset is the write to CTRL with bit 0 = 1, which ends in `toReset` as the pin does, and the core's
move while the clear runs is the end of the clear. -/
theorem softResetAndClear : Obligations.SoftResetAndClear := by
  refine ⟨fun s t u w hbit hpin hsoft => ?resets, fun s hclear => ?clear⟩
  case resets =>
    rcases s.writeCtrl_cases w with ⟨-, e⟩ | ⟨hkeep, -⟩
    · rw [State.take, access_write_ctrl, e] at hsoft
      cases hpin
      cases hsoft
      rfl
    · rw [hbit] at hkeep; cases hkeep
  case clear =>
    exact ⟨Vector.replicate 512 0, fun i h => Vector.getElem_replicate h, coreMove_of_clearing hclear⟩

/-- The word of CTRL after a write of `w` (R41). -/
theorem bitWord_shiftLeft_one (w : Word) : bitWord (w.getLsbD 1) <<< 1 = w &&& 2 := by
  have hmask : (2 : Word) = BitVec.twoPow 32 1 := by decide
  rw [hmask, BitVec.and_twoPow]
  cases w.getLsbD 1 <;> rfl

/-- Settles O31: CTRL holds IRQ_EN alone, so bit 1 of the word written is what is read. -/
theorem controlRegister : Obligations.ControlRegister := by
  intro s w hbit
  have hwrite : s.access (.write 0x008 4 w) = { s with irqEn := w.getLsbD 1, reply := .ack } := by
    rcases s.writeCtrl_cases w with ⟨hreset, -⟩ | ⟨-, e⟩
    · rw [hbit] at hreset; cases hreset
    · rw [access_write_ctrl, e]
  refine ⟨hwrite, ?_⟩
  rw [hwrite, access_read_specified (r := .ctrl) (by decide) (by decide) (.inr rfl)]
  exact congrArg BusReply.data (bitWord_shiftLeft_one w)

/-- The word of IRQ_STATUS as a sum (R44). -/
theorem irqStatusWord_eq_add (s : State) :
    s.irqStatusWord = (if s.doneP then 1 else 0) + (if s.errP then 2 else 0) := by
  unfold State.irqStatusWord
  cases s.doneP <;> cases s.errP <;> rfl

/-- A write to IRQ_STATUS, bit by bit (R44). -/
theorem clearPending_eq_ite (s : State) (w : Word) :
    s.clearPending w =
      { s with doneP := if w.getLsbD 0 then false else s.doneP, errP := if w.getLsbD 1 then false else s.errP } := by
  unfold State.clearPending
  cases w.getLsbD 0 <;> cases w.getLsbD 1 <;> simp

/-- Settles O32: the write is `clearPending`, the word read holds the two pending bits, and `irq` is their level. -/
theorem interruptRegister : Obligations.InterruptRegister := by
  intro s w
  refine ⟨?write, ?read, ?level⟩
  case write =>
    rw [s.access_write_reg 0x014 w .irqStatus (by decide) (by decide), State.writeReg, clearPending_eq_ite]
  case read =>
    rw [access_read_specified (r := .irqStatus) (by decide) (by decide) (.inr rfl), State.regWord, irqStatusWord_eq_add]
  case level => simp [State.irq]

/-- A 4-byte access at a multiple of 4 is performed (R82). -/
theorem accessOk_of_aligned {off : BitVec 12} (h : off.toNat % 4 = 0) : accessOk off 4 = true := by
  simp [accessOk, h]

/-- The offsets of the two data windows (R38). -/
theorem regAt_dataWindow {off : BitVec 12} (hlow : 0x080 ≤ off.toNat) (hhigh : off.toNat < 0x140) :
    (∃ k, regAt off = .xWord k) ∨ ∃ k, regAt off = .bbWord k := by
  simp only [regAt]
  iterate 9 rw [if_neg (by omega)]
  by_cases hx : off.toNat < 0x100
  · exact .inl ⟨_, if_pos ⟨hlow, hx⟩⟩
  · rw [if_neg (by omega)]
    exact .inr ⟨_, if_pos ⟨Nat.le_of_not_lt hx, hhigh⟩⟩

/-- A write to either data window while BUSY = 1 (R225). -/
theorem access_write_data_busy {s : State} {off : BitVec 12} (w : Word) (halign : off.toNat % 4 = 0)
    (hlow : 0x080 ≤ off.toNat) (hhigh : off.toNat < 0x140) (hbusy : s.busy = true) :
    s.access (.write off 4 w) = { s.recordError .busyViolation 0 with reply := .ack } := by
  have hok := accessOk_of_aligned halign
  rcases regAt_dataWindow hlow hhigh with ⟨k, hr⟩ | ⟨k, hr⟩ <;>
    rw [s.access_write_reg off w _ hok hr] <;> simp [State.writeReg, State.guardData, hbusy]

/-- Settles O23: both data windows only record BUSY_VIOLATION, which does nothing while ERR = 1. -/
theorem dataWriteWhileBusy : Obligations.DataWriteWhileBusy := by
  intro s off w halign hlow hhigh hbusy
  rw [access_write_data_busy w halign hlow hhigh hbusy]
  refine ⟨fun herr => ?first, fun herr => ?halted⟩
  case first => rw [recordError_of_running _ _ herr]
  case halted => simp [State.recordError, herr]

/-- The reserved offsets (R50). -/
theorem regAt_reserved {off : BitVec 12}
    (h : (0x024 ≤ off.toNat ∧ off.toNat ≤ 0x07C) ∨ (0x140 ≤ off.toNat ∧ off.toNat ≤ 0x17C) ∨ 0x200 ≤ off.toNat) :
    regAt off = .reserved := by
  simp only [regAt]
  iterate 12 rw [if_neg (by omega)]

/-- The registers of access kind RO outside the digest window ignore a write (R38). -/
theorem writeReg_readOnly {off : BitVec 12} (s : State) (w : Word)
    (h : off.toNat = 0x000 ∨ off.toNat = 0x004 ∨ off.toNat = 0x00C ∨ off.toNat = 0x018 ∨ off.toNat = 0x01C ∨
      off.toNat = 0x020) : s.writeReg (regAt off) w = s := by
  rcases h with h | h | h | h | h | h <;> simp [regAt, h, State.writeReg]

/-- Settles O34: the reserved offsets reach no register, and the read-only registers take no write. -/
theorem reservedAndReadOnlyOffsets : Obligations.ReservedAndReadOnlyOffsets := by
  intro s off w halign
  have hok := accessOk_of_aligned halign
  refine ⟨fun hreserved => ?_, fun hro => access_write_ignored hok rfl (writeReg_readOnly s w hro)⟩
  have hr := regAt_reserved hreserved
  exact ⟨access_read_specified hok hr (.inr rfl), access_write_ignored hok hr rfl⟩

end Sys2Proof.Proofs.ControlRegisters
end

section
/-! PROOF. The three windows word by word: X_WORD, BB_WORD and DG_WORD (R47 to R49). -/

namespace Sys2Proof.Proofs.DataWindows

open Sys2Proof Sys2Proof.Machine Sys2Proof.Proofs.RegisterWindow

/-- The bits of a value with one window word replaced (R47). -/
theorem getLsbD_putWindowWord (V : Residue) {k : Nat} (w : Word) (hk : k < 32) {b : Nat} (hb : b < 1024) :
    (putWindowWord V k w).getLsbD b =
      if 992 - 32 * k ≤ b ∧ b ≤ 1023 - 32 * k then w.getLsbD (b - (992 - 32 * k)) else V.getLsbD b := by
  simp only [putWindowWord, BitVec.getLsbD_or, BitVec.getLsbD_and, BitVec.getLsbD_not, BitVec.getLsbD_shiftLeft,
    getLsbD_wordMask, BitVec.getLsbD_setWidth]
  split
  next hin =>
    have hw : b - (992 - 32 * k) < 32 := by omega
    have hw' : b - (992 - 32 * k) < 1024 := by omega
    simp [hb, Nat.not_lt.2 hin.1, hw, hw']
  next hout =>
    have hw : 32 ≤ b - (992 - 32 * k) ∨ b < 992 - 32 * k := by omega
    rcases hw with hw | hw
    · simp [hb, Nat.not_lt.2 hw, BitVec.getLsbD_of_ge w _ hw]
    · simp [hb, hw]

/-- Settles O26: the word of X is replaced in its place, and a read answers the word in its place. -/
theorem xWindowReadsWhatWasWritten : Obligations.XWindowReadsWhatWasWritten := by
  intro s k w hk hbusy
  refine ⟨putWindowWord s.x k w, ?write, fun b hb => getLsbD_putWindowWord s.x w hk hb, fun j hj => ?read⟩
  case write =>
    obtain ⟨hok, hr⟩ := regAt_xWord k hk
    rw [s.access_write_reg _ w _ hok hr]
    simp [State.writeReg, State.guardData, hbusy]
  case read =>
    obtain ⟨hok, hr⟩ := regAt_xWord j hj
    rw [access_read_specified hok hr (.inl hbusy)]
    rfl

/-- One more word joined behind others. -/
theorem joinWords_append_singleton (ws : List Word) (w : Word) :
    joinWords (ws ++ [w]) = joinWords ws * 2 ^ 32 + w.toNat := by
  simp [joinWords]

/-- The first `n` words of a window, joined, are the bits above the others (R47). -/
theorem joinWords_take (V : Residue) (n : Nat) (hn : n ≤ 32) :
    joinWords ((List.range n).map (windowWord V)) = V.toNat >>> (1024 - 32 * n) := by
  induction n with
  | zero => exact (Nat.shiftRight_eq_zero _ _ V.isLt).symm
  | succ n ih =>
    have hlow : 1024 - 32 * (n + 1) = 992 - 32 * n := by omega
    have hhigh : 1024 - 32 * n = 992 - 32 * n + 32 := by omega
    have hword : (windowWord V n).toNat = V.toNat >>> (992 - 32 * n) % 2 ^ 32 := by
      rw [windowWord, BitVec.extractLsb'_toNat]
    rw [List.range_succ, List.map_append, List.map_singleton, joinWords_append_singleton, ih (by omega), hword, hlow, hhigh,
      Nat.shiftRight_add, Nat.shiftRight_eq_div_pow _ 32]
    exact Nat.div_add_mod' _ _

/-- Settles O27: all 32 words joined leave no bits below. -/
theorem windowWordsConcatenate : Obligations.WindowWordsConcatenate := fun V => joinWords_take V 32 (Nat.le_refl 32)

/-- The bytes of the block buffer after a write of one word (R48). -/
theorem getElem_putBbWord (bb : Vector Byte 64) (k : Nat) (w : Word) {j : Nat} (h : j < 64) :
    (putBbWord bb k w)[j]'h =
      if j = 4 * k then w.extractLsb' 24 8 else if j = 4 * k + 1 then w.extractLsb' 16 8
      else if j = 4 * k + 2 then w.extractLsb' 8 8 else if j = 4 * k + 3 then w.extractLsb' 0 8 else bb[j]'h := by
  simp only [putBbWord, Vector.getElem_setIfInBounds]
  split_ifs <;> first | rfl | omega

/-- A word of the block buffer is the big-endian value of its four bytes (R18, R48). -/
theorem toNat_bbWord (bb : Vector Byte 64) {k : Nat} (hk : k < 16) :
    (bbWord bb k).toNat = beVal ((bb.toList.drop (4 * k)).take 4) := by
  have hbytes : (bb.toList.drop (4 * k)).take 4 =
      [blockByte bb (4 * k), blockByte bb (4 * k + 1), blockByte bb (4 * k + 2), blockByte bb (4 * k + 3)] := by
    rw [blockByte_eq _ _ (by omega), blockByte_eq _ _ (by omega), blockByte_eq _ _ (by omega),
      blockByte_eq _ _ (by omega)]
    refine List.ext_getElem (by simp; omega) fun i h _ => ?_
    have hi : i < 4 := by simp at h; omega
    interval_cases i <;> simp
  rw [hbytes]
  simp only [bbWord, toNat_append_add, beVal, List.foldl_cons, List.foldl_nil]
  ring

/-- Settles O28: a write stores the four bytes of its word, and the word read is made of the four bytes. -/
theorem blockBufferWindow : Obligations.BlockBufferWindow := by
  intro s k w hk
  obtain ⟨hok, hr⟩ := regAt_bbWord k hk
  refine ⟨fun hbusy => ⟨putBbWord s.bb k w, ?_, fun j h => getElem_putBbWord s.bb k w h⟩, bbWord s.bb k,
    access_read_specified hok hr (.inr rfl), toNat_bbWord s.bb hk⟩
  rw [s.access_write_reg _ w _ hok hr]
  simp [State.writeReg, State.guardData, hbusy]

/-- Byte `j` of a residue stands in word `j div 4` of its window (R49). -/
theorem getElem?_beBytes_windowWord (V : Residue) {j : Nat} (hj : j < 128) :
    (beBytes 128 V.toNat)[j]? = some ((windowWord V (j / 4)).extractLsb' (24 - 8 * (j % 4)) 8) := by
  have hbyte : (beBytes 128 V.toNat)[j]? = some (BitVec.ofNat 8 (V.toNat >>> (8 * (127 - j)))) := by
    simp [beBytes, length_upFrom, getElem_upFrom, hj]
  rw [hbyte]
  refine congrArg some (BitVec.eq_of_getLsbD_eq fun i hi => ?_)
  have hplace : 8 * (127 - j) + i = 992 - 32 * (j / 4) + (24 - 8 * (j % 4) + i) := by omega
  have hin : 24 - 8 * (j % 4) + i < 32 := by omega
  simp only [BitVec.getLsbD_ofNat, Nat.testBit_shiftRight, BitVec.testBit_toNat, windowWord, BitVec.getLsbD_extractLsb',
    hplace, hi, hin, decide_true, Bool.true_and]

/-- Settles O29: the word read is the window's, and DG_WORD takes no write. -/
theorem digestWindow : Obligations.DigestWindow := by
  intro s j hj
  obtain ⟨hok, hr⟩ := regAt_dgWord (j / 4) (by omega)
  refine ⟨fun hbusy => ⟨windowWord s.dg (j / 4), ?_, getElem?_beBytes_windowWord s.dg hj⟩, fun w =>
    access_write_ignored hok hr rfl⟩
  rw [access_read_specified hok hr (.inl hbusy)]
  rfl

end Sys2Proof.Proofs.DataWindows
end

section
/-! PROOF. The laws of the unit functions (R142, R148), MODPOW (R147), and one round of the permutation (R192). -/

namespace Sys2Proof.Proofs.UnitLaws

open Sys2Proof Sys2Proof.Machine Sys2Proof.Proofs.ModularArithmetic

theorem modPow_lt {p : Nat} (hp : 0 < p) (e a : Nat) : modPow p e a < p := Nat.mod_lt _ hp

/-- One more factor, reduced (R142). -/
theorem modPow_succ (p k a : Nat) : modPow p (k + 1) a = modMul p (modPow p k a) a := by
  rw [modPow, modMul, modPow, pow_succ, Nat.mod_mul_mod]

/-- Settles O35: the exact power reduced once obeys the recursion, because a factor may be reduced before the product. -/
theorem modPowRecursion : Obligations.ModPowRecursion := by
  intro p a ha
  refine ⟨?one, fun k _ => modPow_succ p k a, fun e => modPow_lt (by omega) e a, fun e he => ⟨?zero, fun hp => ?fixesOne⟩⟩
  case one => rw [modPow, pow_one, Nat.mod_eq_of_lt ha]
  case zero => rw [modPow, Nat.zero_pow (by omega), Nat.zero_mod]
  case fixesOne => rw [modPow, one_pow, Nat.mod_eq_of_lt hp]

/-- `P - 1` is its own inverse: its square is `P - 2` times P, and 1. -/
theorem modMul_pred_pred {p : Nat} (hp : 2 ≤ p) : modMul p (p - 1) (p - 1) = 1 := by
  obtain ⟨q, rfl⟩ := Nat.exists_eq_add_of_le hp
  have hsquare : (2 + q - 1) * (2 + q - 1) = 1 + (2 + q) * q := by
    rw [show 2 + q - 1 = q + 1 by omega]
    ring
  rw [modMul, hsquare, Nat.add_mul_mod_self_left, Nat.mod_eq_of_lt (by omega)]

/-- Settles O36: each law is the law of the integers, reduced. -/
theorem modularLaws : Obligations.ModularLaws := by
  intro p a b c ha hb hc
  have hp : 0 < p := by omega
  refine ⟨Nat.mod_lt _ hp, Nat.mod_lt _ hp, ?addComm, ?mulComm, ?addAssoc, ?mulAssoc, ?addZero, ?mulOne, ?mulZero, ?distrib,
    fun _ => ?opposite, modMul_pred_pred⟩
  case addComm => rw [modAdd, modAdd, Nat.add_comm]
  case mulComm => rw [modMul, modMul, Nat.mul_comm]
  case addAssoc => simp only [modAdd, Nat.mod_add_mod, Nat.add_mod_mod, Nat.add_assoc]
  case mulAssoc => simp only [modMul, Nat.mod_mul_mod, Nat.mul_mod_mod, Nat.mul_assoc]
  case addZero => exact Nat.mod_eq_of_lt ha
  case mulOne => rw [modMul, Nat.mul_one, Nat.mod_eq_of_lt ha]
  case mulZero => exact Nat.zero_mod p
  case distrib => simp only [modMul, modAdd, Nat.mul_mod_mod, Nat.mod_add_mod, Nat.add_mod_mod, Nat.mul_add]
  case opposite => rw [modAdd, Nat.add_sub_cancel' ha.le, Nat.mod_self]

/-- The exponentiator does not fail on a residue (R142, R144). -/
theorem exponentiator_of_below {p : Nat} (e : Nat) {a : Residue} (ha : a.toNat < p) :
    exponentiator p e a = some (BitVec.ofNat 1024 (modPow p e a.toNat)) := by
  rcases exponentiator_cases p e a with ⟨-, answer⟩ | ⟨hfail, -⟩
  · exact answer
  · exact absurd ha hfail

/-- Settles O39: the exponentiator answers the reduced power. -/
theorem modpowResult : Obligations.ModpowResult := by
  intro d a s ha
  obtain ⟨v, hval, hbelow, hwrite⟩ := writeResult_reduced s d (encode (.modpow d a)) ((s.readS a).toNat ^ s.cfg.e)
  refine ⟨v, hval, hbelow, ?_⟩
  rw [← hwrite]
  simp only [exec, execModpow, exponentiator_of_below s.cfg.e ha, modPow]

/-- The round constant of an element (R13). -/
theorem roundConstant_eq (c : Config) (r : BitVec 4) {i : Nat} (h : i < 512) :
    roundConstant c r i = ((c.rc[r.toNat]'r.isLt)[i]'h).toNat := by
  simp [roundConstant, Vector.getD, h]

/-- Settles O48: the value of an element of a round, with its sum over the offsets and its constant written out. -/
theorem roundMeaning : Obligations.RoundMeaning := by
  intro c S r i h
  refine ⟨?_, round_below c S r i h⟩
  rw [toNat_round, roundConstant_eq c r h]
  rfl

end Sys2Proof.Proofs.UnitLaws
end

section
/-! PROOF. What each command does: its result (R126, R160, R161, R170, R175, R176, R196, R210, R212) and the errors it raises
(R178, R221, R226, R228), while ERR = 0 and while ERR = 1 (R29). -/

namespace Sys2Proof.Proofs.CommandResults

open Sys2Proof Sys2Proof.Machine Sys2Proof.Proofs.CommandWords Sys2Proof.Proofs.DigestState

/-! ## The branches of the commands that check something -/

theorem exec_wrs_below {s : State} (d : Index) (h : s.x.toNat < s.cfg.p) :
    exec (.wrs d) s = .next (s.writeS d s.x).finish := by
  simp [exec, execWrs, operandOk, h]

theorem exec_wrs_range {s : State} (d : Index) (h : s.cfg.p ≤ s.x.toNat) :
    exec (.wrs d) s = .next (s.raise .range (encode (.wrs d))) := by
  simp [exec, execWrs, operandOk, Nat.not_lt.2 h]

theorem exec_squeeze_final {s : State} (h : s.phase = .final) :
    exec .squeeze s = .next { s with dg := s.readS 0 }.finish := by
  simp [exec, execSqueeze, h]

theorem exec_squeeze_sequence {s : State} (h : s.phase ≠ .final) :
    exec .squeeze s = .next (s.raise .sequence (encode .squeeze)) := by
  simp [exec, execSqueeze, h]

theorem exec_init (s : State) :
    exec .init s = .next { s with S := s.cfg.iv, blkcnt := 0, dg := 0, phase := .absorbing }.finish := by
  simp [exec, execInit, s.cfg.iv_below]

theorem exec_permute_residues {s : State} (h : s.ResiduesBelow) :
    exec .permute s = .next { s with S := permute s.cfg s.S, rndctr := 0 }.finish := by
  simp [exec, execPermute, s.permutationOk_residues.2 h, s.runPermutation_eq]

/-- The count that has no room (R27, R178). -/
theorem eq_blkcntMax_iff (n : BitVec 64) : n = blkcntMax ↔ n.toNat = 2 ^ 64 - 1 :=
  ⟨fun h => by rw [h]; rfl, fun h => BitVec.eq_of_toNat_eq h⟩

section
variable {s : State} (w : Word) (blk : Vector Byte 64) (after : Phase)

theorem absorb_sequence (h : s.phase ≠ .absorbing) : s.absorb w blk after = s.raise .sequence w := by
  simp [State.absorb, h]

theorem absorb_tooLarge (hphase : s.phase = .absorbing) (hfull : s.blkcnt = blkcntMax) :
    s.absorb w blk after = s.raise .inputTooLarge w := by
  simp [State.absorb, hphase, hfull]

theorem absorb_internal (hphase : s.phase = .absorbing) (hroom : s.blkcnt ≠ blkcntMax) (h : ¬ s.ResiduesBelow) :
    s.absorb w blk after = s.raiseInternal w := by
  simp [State.absorb, hphase, hroom, mt s.permutationOk_residues.1 h]

theorem absorb_residues (hphase : s.phase = .absorbing) (hroom : s.blkcnt ≠ blkcntMax) (h : s.ResiduesBelow) :
    s.absorb w blk after =
      { s with S := absorbBlock s.cfg s.S blk, rndctr := 0, blkcnt := s.blkcnt + 1, phase := after,
               inflight := none, busy := false, doneP := true } := by
  simp [State.absorb, hphase, hroom, s.permutationOk_residues.2 h, State.runPermutation_eq, absorbBlock, State.finish,
    State.complete]

end

/-- Both absorb commands are `State.absorb` of a block made of the block buffer (R175, R176). -/
theorem exec_absorbing {i : Instr} (h : i = .absorb ∨ ∃ len, i = .absorbLast len) :
    ∃ (blkOf : Vector Byte 64 → Vector Byte 64) (after : Phase), ∀ s : State,
      exec i s = .next (s.absorb (encode i) (blkOf s.bb) after) := by
  rcases h with rfl | ⟨len, rfl⟩
  · exact ⟨id, .absorbing, fun _ => rfl⟩
  · exact ⟨fun bb => lastBlock bb len, .final, fun _ => rfl⟩

/-! ## Results -/

/-- Settles O52: NOP finishes the state as it is. -/
theorem nopResult : Obligations.NopResult := fun _ => rfl

/-- Settles O41: RDS copies `S[A]` and finishes. -/
theorem rdsResult : Obligations.RdsResult := fun _ _ => ⟨_, rfl, rfl⟩

/-- Settles O42: IV passes INIT's check in every configuration. -/
theorem initResult : Obligations.InitResult := exec_init

/-- Settles O51: SQUEEZE copies `S[0]` in FINAL. -/
theorem squeezeResult : Obligations.SqueezeResult := fun _ hphase => ⟨_, rfl, exec_squeeze_final hphase⟩

/-- Settles O40: the two sides of the check of X, the failing one with the first error. -/
theorem wrsResult : Obligations.WrsResult := by
  refine fun d s => ⟨exec_wrs_below d, fun hrange herr => ?_⟩
  rw [exec_wrs_range d hrange, raise_of_running _ _ herr]

/-- Settles O50: the permutation goes through on residues. -/
theorem permuteResult : Obligations.PermuteResult := fun _ => exec_permute_residues

/-- Settles O44: ABSORB absorbs the block buffer and stays in ABSORBING. -/
theorem absorbResult : Obligations.AbsorbResult := by
  intro s hres hphase hcount
  have hroom := mt (eq_blkcntMax_iff s.blkcnt).1 hcount
  refine ⟨s.blkcnt + 1, toNat_succ_of_room hroom, ?_⟩
  rw [exec, execAbsorb, absorb_residues _ _ _ hphase hroom hres, ← hphase]

/-- Settles O45: ABSORB_LAST absorbs the padded last block and goes to FINAL. -/
theorem absorbLastResult : Obligations.AbsorbLastResult := by
  intro len s hres hphase hcount
  have hroom := mt (eq_blkcntMax_iff s.blkcnt).1 hcount
  refine ⟨s.blkcnt + 1, lastBlock s.bb len, toNat_succ_of_room hroom, lastBlock_toList s.bb len, ?_⟩
  rw [exec, execAbsorbLast, absorb_residues _ _ _ hphase hroom hres]

/-! ## Errors -/

/-- An error of a command while ERR = 1 only completes it (R29). -/
theorem raise_of_halted {s : State} (c : ErrCode) (w : Word) (h : s.err = true) :
    s.raise c w = { s with inflight := none, busy := false } := by
  simp [State.raise, State.recordError, h, State.complete]

/-- INTERNAL as the first error (R228). -/
theorem raiseInternal_of_running {s : State} (w : Word) (h : s.err = false) :
    ∃ S' n, s.raiseInternal w =
      { s with S := S', draws := n, err := true, errcode := .internal, errcmd := w, errP := true,
               inflight := none, busy := false } :=
  ⟨_, _, raise_of_running .internal w h⟩

/-- INTERNAL while ERR = 1 (R29, R228). -/
theorem raiseInternal_of_halted {s : State} (w : Word) (h : s.err = true) :
    ∃ S' n, s.raiseInternal w = { s with S := S', draws := n, inflight := none, busy := false } :=
  ⟨_, _, raise_of_halted .internal w h⟩

/-- A command that reaches a unit with an operand at or above P (R144, R228). -/
def ReachesUnitAboveModulus (s : State) (i : Instr) : Prop :=
  (∃ d a b, (i = .modadd d a b ∨ i = .modmul d a b) ∧ (s.cfg.p ≤ (s.readS a).toNat ∨ s.cfg.p ≤ (s.readS b).toNat)) ∨
  (∃ d a, i = .modpow d a ∧ s.cfg.p ≤ (s.readS a).toNat) ∨
  (i = .permute ∧ ∃ k : Index, s.cfg.p ≤ (s.readS k).toNat) ∨
  ((i = .absorb ∨ ∃ len, i = .absorbLast len) ∧ s.phase = .absorbing ∧ s.blkcnt.toNat ≠ 2 ^ 64 - 1 ∧
    ∃ k : Index, s.cfg.p ≤ (s.readS k).toNat)

theorem not_residuesBelow {s : State} (h : ∃ k : Index, s.cfg.p ≤ (s.readS k).toNat) : ¬ s.ResiduesBelow := by
  obtain ⟨k, hk⟩ := h
  exact fun hres => Nat.not_lt.2 hk (hres k)

/-- Such a command raises INTERNAL (R228). -/
theorem exec_internal {s : State} {i : Instr} (h : ReachesUnitAboveModulus s i) :
    exec i s = .next (s.raiseInternal (encode i)) := by
  rcases h with ⟨d, a, b, hi, hab⟩ | ⟨d, a, rfl, ha⟩ | ⟨rfl, hk⟩ | ⟨hi, hphase, hcount, hk⟩
  · have hfail : ¬ ((s.readS a).toNat < s.cfg.p ∧ (s.readS b).toNat < s.cfg.p) := by omega
    rcases hi with rfl | rfl
    · rcases adder_cases s.cfg.p (s.readS a) (s.readS b) with ⟨ha, hb, -⟩ | ⟨-, e⟩
      · exact absurd ⟨ha, hb⟩ hfail
      · rw [exec, execModadd, e]; rfl
    · rcases multiplier_cases s.cfg.p (s.readS a) (s.readS b) with ⟨ha, hb, -⟩ | ⟨-, e⟩
      · exact absurd ⟨ha, hb⟩ hfail
      · rw [exec, execModmul, e]; rfl
  · rcases exponentiator_cases s.cfg.p s.cfg.e (s.readS a) with ⟨hlt, -⟩ | ⟨-, e⟩
    · exact absurd hlt (Nat.not_lt.2 ha)
    · rw [exec, execModpow, e]; rfl
  · simp [exec, execPermute, mt s.permutationOk_residues.1 (not_residuesBelow hk)]
  · obtain ⟨blkOf, after, e⟩ := exec_absorbing hi
    rw [e, absorb_internal _ _ _ hphase (mt (eq_blkcntMax_iff s.blkcnt).1 hcount) (not_residuesBelow hk)]

/-- Settles O56: the phase is the first check of the three commands, and the error is the first one. -/
theorem sequenceError : Obligations.SequenceError := by
  rintro s i herr (⟨hphase, hi⟩ | ⟨hphase, rfl⟩)
  · obtain ⟨blkOf, after, e⟩ := exec_absorbing hi
    rw [e, absorb_sequence _ _ _ hphase, raise_of_running _ _ herr]
  · rw [exec_squeeze_sequence hphase, raise_of_running _ _ herr]

/-- Settles O57: the full count is the second check of the absorb commands, and the error is the first one. -/
theorem inputTooLargeError : Obligations.InputTooLargeError := by
  intro s i herr hphase hcount hi
  obtain ⟨blkOf, after, e⟩ := exec_absorbing hi
  rw [e, absorb_tooLarge _ _ _ hphase ((eq_blkcntMax_iff _).2 hcount), raise_of_running _ _ herr]

/-- Settles O58: INTERNAL as the first error. -/
theorem internalError : Obligations.InternalError := by
  intro s i herr h
  obtain ⟨S', n, e⟩ := raiseInternal_of_running (encode i) herr
  exact ⟨S', n, by rw [exec_internal h, e]⟩

/-- Settles O60: every branch that raises an error, in a halted state. -/
theorem errorWhileHaltedOnlyCompletes : Obligations.ErrorWhileHaltedOnlyCompletes := by
  intro s herr
  refine ⟨fun d hrange => ?range, fun hphase => ?squeeze, fun i hi h => ?absorbing, fun i h => ?internal,
    fun w e hclear hflight hd => ?illegal⟩
  case range => rw [exec_wrs_range d hrange, raise_of_halted _ _ herr]
  case squeeze => rw [exec_squeeze_sequence hphase, raise_of_halted _ _ herr]
  case absorbing =>
    obtain ⟨blkOf, after, e⟩ := exec_absorbing hi
    rw [e]
    by_cases hphase : s.phase = .absorbing
    · have hfull := (eq_blkcntMax_iff _).2 (h.resolve_left (not_not.2 hphase))
      rw [absorb_tooLarge _ _ _ hphase hfull, raise_of_halted _ _ herr]
    · rw [absorb_sequence _ _ _ hphase, raise_of_halted _ _ herr]
  case internal =>
    obtain ⟨S', n, e⟩ := raiseInternal_of_halted (encode i) herr
    exact ⟨S', n, by rw [exec_internal h, e]⟩
  case illegal => rw [coreMove_of_illegal hclear hflight hd, raise_of_halted _ _ herr]

end Sys2Proof.Proofs.CommandResults
end

section
/-! PROOF. INIT forgets what was there before it, and the digest commands keep two digest states the same (R217). -/

namespace Sys2Proof.Proofs.Independence

open Sys2Proof Sys2Proof.Machine Sys2Proof.Proofs.CommandResults

/-- Two states agree on what a digest is computed from (R217). -/
structure DigestAgree (s t : State) : Prop where
  S : s.S = t.S
  dg : s.dg = t.dg
  blkcnt : s.blkcnt = t.blkcnt
  phase : s.phase = t.phase

/-- Raising an error leaves the digest state (R224). -/
theorem DigestAgree.raise {s t : State} (h : DigestAgree s t) (c : ErrCode) (w : Word) :
    DigestAgree (s.raise c w) (t.raise c w) :=
  ⟨by simpa using h.S, by simpa using h.dg, by simpa using h.blkcnt, by simpa using h.phase⟩

/-- The branch that an absorb command takes, and what it writes, depend on the digest state and the block. -/
theorem DigestAgree.absorb {s t : State} (h : DigestAgree s t) (hcfg : s.cfg = t.cfg) (hres : s.ResiduesBelow) (w : Word)
    (blk : Vector Byte 64) (after : Phase) : DigestAgree (s.absorb w blk after) (t.absorb w blk after) := by
  have hres' : t.ResiduesBelow := StateInvariants.residuesBelow_of_eq h.S.symm hcfg.symm hres
  by_cases hphase : s.phase = .absorbing
  · have hphase' := h.phase.symm.trans hphase
    by_cases hfull : s.blkcnt = blkcntMax
    · rw [absorb_tooLarge w blk after hphase hfull, absorb_tooLarge w blk after hphase' (h.blkcnt.symm.trans hfull)]
      exact h.raise _ w
    · rw [absorb_residues w blk after hphase hfull hres,
        absorb_residues w blk after hphase' (h.blkcnt ▸ hfull) hres']
      exact ⟨by simp only [h.S, hcfg], h.dg, by simp only [h.blkcnt], rfl⟩
  · rw [absorb_sequence w blk after hphase, absorb_sequence w blk after (h.phase ▸ hphase)]
    exact h.raise _ w

/-- SQUEEZE copies an element of the digest state. -/
theorem DigestAgree.squeeze {s t s' t' : State} (h : DigestAgree s t) (hs : exec .squeeze s = .next s')
    (ht : exec .squeeze t = .next t') : DigestAgree s' t' := by
  by_cases hphase : s.phase = .final
  · rw [exec_squeeze_final hphase] at hs
    rw [exec_squeeze_final (h.phase.symm.trans hphase)] at ht
    cases hs
    cases ht
    exact ⟨h.S, by simp [State.readS, h.S], h.blkcnt, h.phase⟩
  · rw [exec_squeeze_sequence hphase] at hs
    rw [exec_squeeze_sequence (h.phase ▸ hphase)] at ht
    cases hs
    cases ht
    exact h.raise _ _

/-- Settles O54: INIT writes the whole digest state from the configuration, and the other commands keep agreement. -/
theorem initForgetsThePast : Obligations.InitForgetsThePast := by
  refine ⟨fun s t s' t' hcfg hs ht => ?init, fun i s t s' t' hi hres hcfg hbb hS hdg hblkcnt hphase hs ht => ?later⟩
  case init =>
    rw [exec_init] at hs ht
    cases hs
    cases ht
    exact ⟨congrArg (fun c : Config => c.iv) hcfg, rfl, rfl, rfl⟩
  case later =>
    have agree : DigestAgree s t := ⟨hS, hdg, hblkcnt, hphase⟩
    have agree' : DigestAgree s' t' := by
      rcases or_assoc.2 hi with hi | rfl
      · obtain ⟨blkOf, after, e⟩ := exec_absorbing hi
        rw [e s] at hs
        rw [e t, ← hbb] at ht
        cases hs
        cases ht
        exact agree.absorb hcfg hres _ _ _
      · exact agree.squeeze hs ht
    obtain ⟨hS', hdg', hblkcnt', hphase'⟩ := agree'
    exact ⟨hS', hdg', hblkcnt', hphase'⟩

end Sys2Proof.Proofs.Independence
end

section
/-! PROOF. Padding: its length, its inverse, and the blocks the host makes of a message (R172, R177, R179). -/

namespace Sys2Proof.Proofs.Padding

open Sys2Proof Sys2Proof.Machine

/-- The padding fills the last block (R172). -/
theorem length_pad (m : List Byte) : (pad m).length = 64 * (m.length / 64 + 1) := by
  simp [pad]
  omega

/-- What `Pad` was applied to: the bytes before the last 0x80. -/
def unpad (bytes : List Byte) : List Byte := (bytes.rdropWhile (· == 0x00)).dropLast

/-- The zeros behind a byte that is not zero are dropped. -/
theorem rdropWhile_zeros (m : List Byte) (z : Nat) :
    (m ++ [0x80] ++ List.replicate z 0x00).rdropWhile (· == (0x00 : Byte)) = m ++ [0x80] := by
  induction z with
  | zero => simp
  | succ z ih => rw [List.replicate_succ', ← List.append_assoc, List.rdropWhile_concat_pos _ _ _ (by simp), ih]

theorem unpad_pad (m : List Byte) : unpad (pad m) = m := by
  rw [unpad, pad, rdropWhile_zeros, List.dropLast_concat]

/-- Settles O46: the length says how many zeros there are, and `unpad` undoes `pad`. -/
theorem padIsInjective : Obligations.PadIsInjective := by
  refine ⟨fun m => ⟨63 - m.length % 64, by omega, rfl, ?_, ?_⟩, fun m m' h => ?_⟩
  · rw [length_pad, Nat.mul_mod_right]
  · rw [length_pad, Nat.mul_div_cancel_left _ (by decide)]
  · rw [← unpad_pad m, h, unpad_pad]

/-- A byte of a padded message (R172). -/
theorem getD_pad (m : List Byte) (k : Nat) :
    (pad m).getD k 0 = if k < m.length then m.getD k 0 else if k = m.length then 0x80 else 0x00 := by
  unfold pad
  rw [List.append_assoc]
  split
  next h => rw [List.getD_append _ _ _ _ h]
  next h =>
    rw [List.getD_append_right _ _ _ _ (Nat.le_of_not_lt h)]
    split
    next h' => simp [h']
    next h' =>
      obtain ⟨i, hi⟩ : ∃ i, k - m.length = i + 1 := ⟨k - m.length - 1, by omega⟩
      rw [hi, List.getD_eq_getElem?_getD]
      exact List.getElem?_getD_replicate_default_eq 0x00 _ i

/-- A full block of a padded message is the message's (R179). -/
theorem blockAt_pad_of_lt (m : List Byte) {j : Nat} (hj : j < m.length / 64) : blockAt (pad m) j = blockAt m j := by
  refine Vector.ext fun i hi => ?_
  simp only [blockAt, getElem_tabulate, getD_pad]
  exact if_pos (by omega)

/-- The last block of a padded message is what ABSORB_LAST makes of the remaining bytes (R176, R179). -/
theorem blockAt_pad_last (m : List Byte) (bb : Vector Byte 64)
    (h : ∀ (j : Nat) (h : j < 64), j < m.length % 64 → m[64 * (m.length / 64) + j]? = some (bb[j]'h)) :
    blockAt (pad m) (m.length / 64) = lastBlock bb (BitVec.ofNat 6 (m.length % 64)) := by
  refine Vector.ext fun i hi => ?_
  have hlen : (BitVec.ofNat 6 (m.length % 64)).toNat = m.length % 64 := by
    rw [BitVec.toNat_ofNat, Nat.mod_eq_of_lt (Nat.mod_lt _ (by decide))]
  simp only [blockAt, lastBlock, getElem_tabulate, getD_pad, hlen]
  have hdiv := Nat.div_add_mod m.length 64
  rcases lt_trichotomy i (m.length % 64) with hlt | heq | hgt
  · rw [if_pos (by omega), if_pos hlt, List.getD_eq_getElem?_getD, h i hi hlt, blockByte_eq bb i hi]
    rfl
  · rw [if_neg (by omega), if_pos (by omega), if_neg (by omega), if_pos heq]
  · rw [if_neg (by omega), if_neg (by omega), if_neg (by omega), if_neg (by omega)]

/-- Settles O47: the blocks of the padding are the full ones of the message and the last one. -/
theorem hostSplitIsPadding : Obligations.HostSplitIsPadding := by
  intro m bb h
  rw [padBlocks, upFrom_eq_map, ← List.range_eq_range', List.range_succ, List.map_append, List.map_singleton,
    blockAt_pad_last m bb h]
  congr 1
  exact List.map_congr_left fun j hj => blockAt_pad_of_lt m (List.mem_range.1 hj)

end Sys2Proof.Proofs.Padding
end

section
/-! PROOF. The host's digest procedure, line by line (R122, R215): what each line leaves, and the digest it ends with. -/

namespace Sys2Proof.Proofs.DigestProcedure

open Sys2Proof Sys2Proof.Machine Sys2Proof.Proofs.CommandEncoding Sys2Proof.Proofs.StateInvariants
  Sys2Proof.Proofs.DigestState Sys2Proof.Proofs.CommandResults Sys2Proof.Proofs.DataWindows Sys2Proof.Proofs.Padding

/-- The core has no work, no clear and no error, so that a line of a listing runs its command (R122, R124). -/
structure HostReady (s : State) : Prop where
  clearing : s.clearing = false
  busy : s.busy = false
  err : s.err = false

/-- Between two lines of the procedure: the state register file, the number of blocks absorbed and the phase. -/
structure DigestRun (c : Config) (after : Phase) (S : Vector Residue 512) (n : Nat) (s : State) : Prop
    extends HostReady s where
  cfg : s.cfg = c
  residues : s.ResiduesBelow
  phase : s.phase = after
  blkcnt : s.blkcnt.toNat = n
  S : s.S = S

/-- A line runs its command, whatever the schedule of its POLL (R122, R262). -/
theorem line_of_exec {s u : State} {i : Instr} (schedule : List Bool) (hs : HostReady s) (hu : u.busy = false)
    (hx : ∀ r, exec i { s with inflight := some (encode i), busy := true, reply := r } = .next { u with reply := r }) :
    ∃ r, s.line i schedule = .next { u with reply := r } :=
  s.line_completes u i schedule (decodeEncode i) hs.clearing hs.busy hs.err hu hx

/-- `INIT` starts a run from IV (R170). -/
theorem line_init {s : State} (schedule : List Bool) (hs : HostReady s) :
    ∃ t, s.line .init schedule = .next t ∧ DigestRun s.cfg .absorbing s.cfg.iv 0 t := by
  obtain ⟨r, e⟩ := line_of_exec (i := .init) schedule hs rfl
    (u := { s with S := s.cfg.iv, blkcnt := 0, dg := 0, phase := .absorbing, inflight := none, busy := false, doneP := true })
    fun r => exec_init _
  exact ⟨_, e, ⟨hs.clearing, rfl, hs.err⟩, rfl,
    (State.residuesBelow_iff _).2 ((allBelow_iff _ _).1 s.cfg.iv_below), rfl, rfl, rfl⟩

/-- A line of an absorb command, with room, absorbs its block (R175, R176). -/
theorem line_absorbing {c : Config} {S : Vector Residue 512} {n : Nat} {s : State} {i : Instr} {blk : Vector Byte 64}
    {after : Phase} (schedule : List Bool) (hs : DigestRun c .absorbing S n s) (hn : n < 2 ^ 64 - 1)
    (hx : ∀ t : State, t.bb = s.bb → exec i t = .next (t.absorb (encode i) blk after)) :
    ∃ t, s.line i schedule = .next t ∧ DigestRun c after (absorbBlock c S blk) (n + 1) t := by
  have hroom : s.blkcnt ≠ blkcntMax := mt (eq_blkcntMax_iff s.blkcnt).1 (by have := hs.blkcnt; omega)
  obtain ⟨r, e⟩ := line_of_exec (i := i) schedule hs.toHostReady rfl
    (u := { s with S := absorbBlock s.cfg s.S blk, rndctr := 0, blkcnt := s.blkcnt + 1, phase := after,
                   inflight := none, busy := false, doneP := true })
    fun r => (hx { s with inflight := some (encode i), busy := true, reply := r } rfl).trans
      (congrArg Host.Outcome.next (absorb_residues _ _ _ hs.phase hroom hs.residues))
  refine ⟨_, e, ⟨hs.clearing, rfl, hs.err⟩, hs.cfg, ?_, rfl, ?_, ?_⟩
  · exact (State.residuesBelow_iff _).2 (absorbBlock_below s.cfg s.S blk (s.residuesBelow_iff.1 hs.residues))
  · rw [← hs.blkcnt]; exact toNat_succ_of_room hroom
  · rw [← hs.cfg, ← hs.S]

/-- `WRBB` changes the block buffer alone (R122). -/
theorem wrbb_run {c : Config} {ph : Phase} {S : Vector Residue 512} {n : Nat} {s : State} (m : List Byte)
    (hs : DigestRun c ph S n s) : ∃ t, s.wrbb m = .next t ∧ t.bb = blockAt m 0 ∧ DigestRun c ph S n t := by
  obtain ⟨r, e⟩ := s.wrbb_next m hs.busy
  exact ⟨_, e, rfl, ⟨hs.clearing, hs.busy, hs.err⟩, hs.cfg, hs.residues, hs.phase, hs.blkcnt, hs.S⟩

/-- The bytes of one block, written at the front of BB, are that block. -/
theorem blockAt_slice (m : List Byte) (n : Nat) : blockAt ((m.drop (64 * n)).take 64) 0 = blockAt m n := by
  refine Vector.ext fun i hi => ?_
  simp [blockAt, List.getElem?_take, List.getElem?_drop, hi]

/-- The loop over the first `n` full blocks absorbs them in order (R215). -/
theorem hostBlocks_run {c : Config} {S : Vector Residue 512} {s : State} (schedules : Nat → List Bool) (m : List Byte)
    (hs : DigestRun c .absorbing S 0 s) (n : Nat) (hn : n < 2 ^ 64) :
    ∃ t, State.hostBlocks schedules m n s = .next t ∧
      DigestRun c .absorbing (((List.range n).map (blockAt m)).foldl (absorbBlock c) S) n t := by
  induction n with
  | zero => exact ⟨s, rfl, hs⟩
  | succ n ih =>
    obtain ⟨t, ht, runt⟩ := ih (by omega)
    obtain ⟨u, hu, hbb, runu⟩ := wrbb_run ((m.drop (64 * n)).take 64) runt
    rw [blockAt_slice] at hbb
    obtain ⟨v, hv, runv⟩ := line_absorbing (i := .absorb) (blk := blockAt m n) (schedules (n + 1)) runu (by omega)
      fun t' htbb => by rw [exec, execAbsorb, htbb, hbb]
    refine ⟨v, ?_, ?_⟩
    · rw [State.hostBlocks, andThen_of_next ht, andThen_of_next hu, hv]
    · rwa [List.range_succ, List.map_append, List.map_singleton, List.foldl_concat]

/-- `SQUEEZE` after the last block (R210). -/
theorem line_squeeze {c : Config} {S : Vector Residue 512} {n : Nat} {s : State} (schedule : List Bool)
    (hs : DigestRun c .final S n s) :
    ∃ t, s.line .squeeze schedule = .next t ∧ t.dg = S.getD 0 0 ∧ DigestRun c .final S n t := by
  obtain ⟨r, e⟩ := line_of_exec (i := .squeeze) schedule hs.toHostReady rfl
    (u := { s with dg := s.readS 0, inflight := none, busy := false, doneP := true }) fun r => exec_squeeze_final hs.phase
  refine ⟨_, e, ?_, ⟨hs.clearing, rfl, hs.err⟩, hs.cfg, hs.residues, hs.phase, hs.blkcnt, hs.S⟩
  simp [State.readS, Vector.getD, hs.S]

/-- `RDDG` returns DG and changes no state behind the port (R122). -/
theorem rddg_run {s : State} (hbusy : s.busy = false) : ∃ r, s.rddg = .next (s.dg, { s with reply := r }) := by
  obtain ⟨r, e⟩ := s.rddg_next hbusy
  refine ⟨r, ?_⟩
  rw [e, upFrom_eq_map, ← List.range_eq_range', windowWordsConcatenate, BitVec.ofNat_toNat, BitVec.setWidth_eq]

/-- The remaining bytes stand at the front of BB after the last `WRBB` (R179). -/
theorem getElem_remaining (m : List Byte) {j : Nat} (h : j < 64) (hj : j < m.length % 64) :
    m[64 * (m.length / 64) + j]? = some ((blockAt (m.drop (64 * (m.length / 64))) 0)[j]'h) := by
  have hlt : 64 * (m.length / 64) + j < m.length := by omega
  simp [blockAt, List.getElem?_drop, hlt]

/-- Settles O55: the lines run one after the other, the blocks they absorb are those of the padding, and DG is then `S[0]`
of `DigestRef`'s last state. -/
theorem digestProcedureComputesDigest : Obligations.DigestProcedureComputesDigest := by
  intro s schedules m hclear _ hbusy herr hcount
  obtain ⟨s1, h1, run1⟩ := line_init (schedules 0) ⟨hclear, hbusy, herr⟩
  obtain ⟨s2, h2, run2⟩ := hostBlocks_run schedules m run1 (m.length / 64) (by omega)
  obtain ⟨s3, h3, hbb, run3⟩ := wrbb_run (m.drop (64 * (m.length / 64))) run2
  obtain ⟨s4, h4, run4⟩ := line_absorbing (schedules (m.length / 64 + 1)) run3 (by omega)
    (i := .absorbLast (.ofNat 6 (m.length % 64))) (blk := lastBlock s3.bb (.ofNat 6 (m.length % 64))) (after := .final)
    fun t ht => by rw [exec, execAbsorbLast, ht]
  obtain ⟨s5, h5, hdg, run5⟩ := line_squeeze (schedules (m.length / 64 + 2)) run4
  obtain ⟨r, h6⟩ := rddg_run run5.busy
  have hsplit := hostSplitIsPadding m s3.bb fun j h hj => by rw [getElem_remaining m h hj, hbb]
  have hdigest : beBytes 128 s5.dg.toNat = digestRef s.cfg m := by
    rw [hdg, digestRef, squeeze, hsplit, List.foldl_concat]
  refine ⟨{ s5 with reply := r }, ?_, hdigest, run5.phase, run5.blkcnt, run5.err⟩
  rw [State.hostDigest, andThen_of_next h1, andThen_of_next h2, andThen_of_next h3, andThen_of_next h4, andThen_of_next h5,
    andThen_of_next h6, hdigest]

end Sys2Proof.Proofs.DigestProcedure
end
